-- ==== Sys2Proof/Word.lean ====
section
/-! DEFINITION. The block's words: bytes and the 16-bit CRC word (R12), a byte-sequence operand that may be NULL
(R15), the words of the opcode table (R61, R64, R70, R73), the six error names (R190) and the four events (R196). -/

namespace Sys2Proof

/-- A byte, 0 to 255 (R12). -/
abbrev Byte := BitVec 8

/-- A `u16`, 0 to 65535 (R12). -/
abbrev U16 := BitVec 16

/-- The byte-sequence operand of LINK.SEND and LINK.RX: NULL with the length the host states, or a byte sequence,
whose length operand is always the sequence's own (R15). -/
inductive SeqArg where
  | null (len : Nat)
  | bytes (s : List Byte)
deriving DecidableEq, Repr

/-- The operand `len` that goes with a byte-sequence operand (R15). -/
def SeqArg.len : SeqArg → Nat
  | .null n => n
  | .bytes s => s.length

/-- One operand of a command. Operands are abstract values, not bit fields (R61): a byte sequence, a byte sequence
with a `present` bit (absent is NULL), a natural number, or the integer the Physical Layer answers (R131). -/
inductive Operand where
  | seq (s : List Byte)
  | maybeSeq (s : Option (List Byte))
  | nat (n : Nat)
  | answer (r : Int)
deriving DecidableEq, Repr

/-- A word of spec/opcode_table.json, in one of the five formats of its column "format": a command (`op[3:0]` and its
operands, R61), the TYPE byte of a decoded frame (R64), a byte of the wire, a wire byte at a code position, a wire byte
at a data position (R70, R73). DESIGN CHOICE (log 1), safe: the formats are labels for where a byte stands. -/
inductive TableWord where
  | cmd (op : BitVec 4) (operands : List Operand)
  | frameType (b : Byte)
  | wire (b : Byte)
  | wireCode (b : Byte)
  | wireData (b : Byte)
deriving DecidableEq, Repr

/-- The six error results, symbolic (R190, R193). -/
inductive ErrName where
  | invalidInput
  | outputTooSmall
  | incomplete
  | invalidParam
  | bufferFull
  | general
deriving DecidableEq, Repr

/-- The four events (R196); the event carries its name only. -/
inductive Event where
  | outgoingDataAvailable
  | incomingDataAvailable
  | crcError
  | frameReceived
deriving DecidableEq, Repr

end Sys2Proof
end

