-- ==== Sys2Proof/Config.lean ====
section
/-! DEFINITION. The constants of R10, and the numerals R11 leaves open as constants without a body. The two open
quantities that change what an operation does, LINK_ENC_CAP and PHY_MAX_PAYLOAD, are the field `params` of State. -/

namespace Sys2Proof.Config

/-- `DELIM`: the frame delimiter (R10, R74). -/
abbrev delim : Byte := 0x00
/-- `FRAME_TYPE_DATA`: the only defined frame TYPE (R10, R65). -/
abbrev frameTypeData : Byte := 0x01
/-- `LINK_MAX_PAYLOAD` (R10). -/
abbrev linkMaxPayload : Nat := 250
/-- `FRAME_OVERHEAD`: TYPE, LENGTH and CRC16 (R10). -/
abbrev frameOverhead : Nat := 4
/-- `LINK_MAX_FRAME_SIZE`: the largest frame before encoding, and the size of the decode scratch (R10). -/
abbrev linkMaxFrameSize : Nat := 254
/-- `COBS_MAX_INPUT` (R10). -/
abbrev cobsMaxInput : Nat := 254
/-- `COBS_MAX_ENCODED_SIZE` (R10). -/
abbrev cobsMaxEncodedSize : Nat := 257
/-- `QUEUE_CAP`: the capacity of each link byte queue (R10). -/
abbrev queueCap : Nat := 514
/-- `CRC_POLY` (R10, R90). -/
abbrev crcPoly : U16 := 0x1021
/-- `CRC_INIT` (R10, R90). -/
abbrev crcInit : U16 := 0xFFFF
/-- `CRC_TABLE_SIZE` (R10). -/
abbrev crcTableSize : Nat := 256
/-- `COBS_FULL_CODE`: the code byte of a run of 254 nonzero bytes (R10). -/
abbrev cobsFullCode : Byte := 0xFF

/-- The numerals of the error results, `E_COBS_*` and `E_LINK_*` of R11: not in the source (R193), so left without a
value (log 11), safe. -/
opaque errorNumeral : ErrName → Int

/-- The numerals of the events, `EV_*` of R11: not in the source (R198), so left without a value (log 11), safe. -/
opaque eventNumeral : Event → Int

/-- What R11 and R193 ask of the error numerals: the three codec results pairwise distinct, the three Link Layer
results pairwise distinct integers in −64..−33. -/
abbrev LegalErrorNumerals (num : ErrName → Int) : Prop :=
  num .invalidInput ≠ num .outputTooSmall ∧ num .invalidInput ≠ num .incomplete ∧
  num .outputTooSmall ≠ num .incomplete ∧
  num .invalidParam ≠ num .bufferFull ∧ num .invalidParam ≠ num .general ∧ num .bufferFull ≠ num .general ∧
  (-64 ≤ num .invalidParam ∧ num .invalidParam ≤ -33) ∧
  (-64 ≤ num .bufferFull ∧ num .bufferFull ≤ -33) ∧
  (-64 ≤ num .general ∧ num .general ≤ -33)

end Sys2Proof.Config
end

