-- ==== Sys2Proof/Syntax.lean ====
section
/-! DEFINITION. The instructions: one constructor per row of spec/opcode_table.json, the nine operations of R60, the
unassigned operation codes of R63 and the wire symbols of R64, R70 and R73. -/

namespace Sys2Proof

/-- The rows of the opcode table, in its order. -/
inductive Instr where
  /-- CRC.CALC of a byte sequence (R94; there is no NULL case, R95 (c)). -/
  | crcCalc (s : List Byte)
  /-- COBS.ENC of a byte sequence or NULL, with `out_cap` (R100). -/
  | cobsEnc (inp : Option (List Byte)) (outCap : Nat)
  /-- COBS.DEC of a byte sequence or NULL, with `out_cap` (R110). -/
  | cobsDec (inp : Option (List Byte)) (outCap : Nat)
  /-- LINK.SEND (R120). -/
  | linkSend (payload : SeqArg)
  /-- LINK.RX (R140). -/
  | linkRx (bytes : SeqArg)
  /-- LINK.POUT with the integer `r` the Physical Layer answers if the downward call is made (R130, R131; log 5). -/
  | linkPout (r : Int)
  /-- LINK.PIN (R150). -/
  | linkPin
  /-- LINK.RESET (R171). -/
  | linkReset
  /-- LINK.MAXPL (R173). -/
  | linkMaxpl
  /-- Operation code 0x9 (R63). -/
  | unassigned9
  /-- Operation codes 0xA and 0xB, `101x` (R63). -/
  | unassignedAB (x : BitVec 1)
  /-- Operation codes 0xC to 0xF, `11xx` (R63). -/
  | unassignedCF (x : BitVec 2)
  /-- TYPE byte 0x01 of a decoded frame (R65, R156). -/
  | frameTypeData
  /-- TYPE byte other than 0x01 of a decoded frame (R75, R157). -/
  | frameTypeReserved (t : Byte)
  /-- The delimiter 0x00 on the wire (R73, R111). -/
  | wireDelimiter
  /-- Code byte 0x01 to 0xFE (R71, R113). -/
  | cobsCodeRun (c : Byte)
  /-- Code byte 0xFF (R71, R113). -/
  | cobsCodeFull
  /-- Data byte, not 0x00 (R70, R113). -/
  | cobsData (d : Byte)
deriving DecidableEq, Repr

end Sys2Proof
end

