-- ==== Sys2Proof/WellFormed.lean ====
section
/-! DEFINITION. Well-formed instructions: the value ranges the opcode table gives its wire-symbol rows. A command's
operands are abstract values without a range of their own (R61); that `len` is the sequence's length (R15) is built
into SeqArg. -/

namespace Sys2Proof

/-- The operand values each row of the opcode table admits. -/
def Instr.wellFormed : Instr → Bool
  | .crcCalc _ => true
  | .cobsEnc _ _ => true
  | .cobsDec _ _ => true
  | .linkSend _ => true
  | .linkRx _ => true
  | .linkPout _ => true
  | .linkPin => true
  | .linkReset => true
  | .linkMaxpl => true
  | .unassigned9 => true
  | .unassignedAB _ => true
  | .unassignedCF _ => true
  | .frameTypeData => true
  | .frameTypeReserved t => t != Config.frameTypeData
  | .wireDelimiter => true
  | .cobsCodeRun c => c != Config.delim && c != Config.cobsFullCode
  | .cobsCodeFull => true
  | .cobsData d => d != Config.delim

end Sys2Proof
end

