-- ==== Sys2Proof/Decode.lean ====
section
/-! DEFINITION. The decoder of the opcode table's words (R61 to R63, R64, R70, R71), total, with a name for every word
it rejects; then the encoder, from the same tables; then the decoder over bits numbered as spec/opcode_table.json
numbers them. -/

namespace Sys2Proof

/-- Why a word is no instruction. -/
inductive DecodeError where
  /-- The operands are not those of R60's row for this operation code. -/
  | wrongOperands (op : BitVec 4)
  /-- The stated length is not the length of the sequence (R15). -/
  | lengthMismatch (op : BitVec 4)
  /-- A nonzero wire byte without its position: code byte or data byte is not decided by its value (R70). -/
  | positionUnknown (b : Byte)
deriving DecidableEq, Repr

/-- The operand pair of LINK.SEND and LINK.RX: the sequence and its length (R15, R60). -/
def decodeSeqArg (op : BitVec 4) : List Operand → Except DecodeError SeqArg
  | [.maybeSeq none, .nat n] => .ok (.null n)
  | [.maybeSeq (some s), .nat n] => if n = s.length then .ok (.bytes s) else .error (.lengthMismatch op)
  | _ => .error (.wrongOperands op)

/-- The command with operation code `op` (R62), its operands in the order of R60. An unassigned code selects no
operation whatever follows it (R63). -/
def decodeCommand (op : BitVec 4) (operands : List Operand) : Except DecodeError Instr :=
  match op.toNat, operands with
  | 0x0, [.seq s] => .ok (.crcCalc s)
  | 0x1, [.maybeSeq s, .nat cap] => .ok (.cobsEnc s cap)
  | 0x2, [.maybeSeq s, .nat cap] => .ok (.cobsDec s cap)
  | 0x3, l => (decodeSeqArg op l).map .linkSend
  | 0x4, l => (decodeSeqArg op l).map .linkRx
  | 0x5, [.answer r] => .ok (.linkPout r)
  | 0x6, [] => .ok .linkPin
  | 0x7, [] => .ok .linkReset
  | 0x8, [] => .ok .linkMaxpl
  | 0x9, _ => .ok .unassigned9
  | 0xA, _ => .ok (.unassignedAB 0)
  | 0xB, _ => .ok (.unassignedAB 1)
  | 0xC, _ => .ok (.unassignedCF 0)
  | 0xD, _ => .ok (.unassignedCF 1)
  | 0xE, _ => .ok (.unassignedCF 2)
  | 0xF, _ => .ok (.unassignedCF 3)
  | _, _ => .error (.wrongOperands op)

/-- The code byte of a run (R71): 0xFF is a full run, 0x01 to 0xFE a run, and 0x00 is no code byte but the
delimiter. -/
def decodeCode (b : Byte) : Instr :=
  if b = Config.delim then .wireDelimiter
  else if b = Config.cobsFullCode then .cobsCodeFull
  else .cobsCodeRun b

/-- The decoder. The byte 0x00 on the wire is the delimiter wherever it stands (R74, R77). -/
def decode : TableWord → Except DecodeError Instr
  | .cmd op operands => decodeCommand op operands
  | .frameType b => .ok (if b = Config.frameTypeData then .frameTypeData else .frameTypeReserved b)
  | .wire b => if b = Config.delim then .ok .wireDelimiter else .error (.positionUnknown b)
  | .wireCode b => .ok (decodeCode b)
  | .wireData b => .ok (if b = Config.delim then .wireDelimiter else .cobsData b)

/-- The operands that carry a byte-sequence operand and its length (R15, R60). -/
def SeqArg.operands : SeqArg → List Operand
  | .null n => [.maybeSeq none, .nat n]
  | .bytes s => [.maybeSeq (some s), .nat s.length]

/-- The encoder: the word of each row of the opcode table. -/
def encode : Instr → TableWord
  | .crcCalc s => .cmd 0x0 [.seq s]
  | .cobsEnc inp cap => .cmd 0x1 [.maybeSeq inp, .nat cap]
  | .cobsDec inp cap => .cmd 0x2 [.maybeSeq inp, .nat cap]
  | .linkSend p => .cmd 0x3 p.operands
  | .linkRx p => .cmd 0x4 p.operands
  | .linkPout r => .cmd 0x5 [.answer r]
  | .linkPin => .cmd 0x6 []
  | .linkReset => .cmd 0x7 []
  | .linkMaxpl => .cmd 0x8 []
  | .unassigned9 => .cmd 0x9 []
  | .unassignedAB x => .cmd (0b101#3 ++ x) []
  | .unassignedCF x => .cmd (0b11#2 ++ x) []
  | .frameTypeData => .frameType 0x01
  | .frameTypeReserved t => .frameType t
  | .wireDelimiter => .wire 0x00
  | .cobsCodeRun c => .wireCode c
  | .cobsCodeFull => .wireCode 0xFF
  | .cobsData d => .wireData d

/-- The operands of zeros of an operation code: the empty sequence, an absent sequence, 0 (R60). -/
def zeroOperands (op : BitVec 4) : List Operand :=
  match op.toNat with
  | 0x0 => [.seq []]
  | 0x1 => [.maybeSeq none, .nat 0]
  | 0x2 => [.maybeSeq none, .nat 0]
  | 0x3 => [.maybeSeq none, .nat 0]
  | 0x4 => [.maybeSeq none, .nat 0]
  | 0x5 => [.answer 0]
  | _ => []

/-- The word of the opcode table whose bits are `w`: the table's formats overlap on a byte (0x00 is both CRC.CALC and
the delimiter), and a number does not say its format. A value below 16 is read as an operation code with operands of
zeros, any other byte as a wire byte at a code position. DESIGN CHOICE (log 1), safe: this reading serves the host's
question only, `decode` takes the format with the word. -/
def tableWord (_nbits w : Nat) : Option TableWord :=
  if w < 16 then some (.cmd (BitVec.ofNat 4 w) (zeroOperands (BitVec.ofNat 4 w)))
  else if w < 256 then some (.wireCode (BitVec.ofNat 8 w))
  else none

/-- The instruction the decoder reads from the table's bits. -/
def decodeTableWord (nbits w : Nat) : Option Instr :=
  match tableWord nbits w with
  | none => none
  | some word =>
    match decode word with
    | .ok i => some i
    | .error _ => none

/-- A command row of the opcode table: mnemonic, mask and match over `op[3:0]` (R62). -/
structure OpRow where
  mnemonic : String
  mask : BitVec 4
  value : BitVec 4
deriving DecidableEq, Repr

/-- The twelve command rows of spec/opcode_table.json. -/
def opRows : List OpRow :=
  [⟨"CRC.CALC", 0xF, 0x0⟩, ⟨"COBS.ENC", 0xF, 0x1⟩, ⟨"COBS.DEC", 0xF, 0x2⟩, ⟨"LINK.SEND", 0xF, 0x3⟩] ++
  [⟨"LINK.RX", 0xF, 0x4⟩, ⟨"LINK.POUT", 0xF, 0x5⟩, ⟨"LINK.PIN", 0xF, 0x6⟩, ⟨"LINK.RESET", 0xF, 0x7⟩] ++
  [⟨"LINK.MAXPL", 0xF, 0x8⟩, ⟨"unassigned_0x9", 0xF, 0x9⟩, ⟨"unassigned_0xA-0xB", 0xE, 0xA⟩,
    ⟨"unassigned_0xC-0xF", 0xC, 0xC⟩]

/-- The operation code is one of the row's. -/
def OpRow.admits (row : OpRow) (op : BitVec 4) : Bool := op &&& row.mask == row.value

end Sys2Proof
end

