-- ==== Sys2Proof/Machine/State.lean ====
section
/-! DEFINITION. The state of the block: the persistent record of R20, the receive engine's working registers while a
wire frame is walked (R25, R28, R29), the output of R16, what an instance is given (R11, R223), and the list
of words waiting to be run. The queues are byte lists (R24). -/

namespace Sys2Proof.Machine

/-- The Link Layer's state machine register (R21), no numeric codes. -/
inductive LinkState where
  | ready
  | sending
  | error
deriving DecidableEq, Repr

/-- The decoder's working registers during the walk of one body (R28): delimiter position `d`, read position `p`,
current code byte `c`, data bytes of the run not yet copied `left` (derived from `c` and `p`), and the written part of
the decode scratch `out` (R25), whose length is `out_len`. -/
structure BodyRegs where
  d : Nat
  p : Nat
  c : Byte
  left : Nat
  out : List Byte
deriving DecidableEq, Repr

/-- The working registers of LINK.PIN once a body is decoded and has passed steps 3 to 5 (R29). -/
structure FrameRegs where
  decoded : List Byte
  consumed : Nat
  len : Byte
  kCalc : U16
  kRecv : U16
deriving DecidableEq, Repr

/-- The receive engine in the middle of a wire frame. DESIGN CHOICE (log 3), safe. -/
inductive Walk where
  | body (r : BodyRegs)
  | frame (f : FrameRegs)
deriving DecidableEq, Repr

/-- The open quantities of R11 that change what an operation does: `LINK_ENC_CAP` and `PHY_MAX_PAYLOAD` (log 10). -/
structure Params where
  encCap : Nat
  phyMax : Nat
deriving DecidableEq, Repr

/-- R11's defaults: 257, and no clamp (any value of 514 or more). -/
def Params.default : Params := ⟨257, 514⟩

/-- The constraints of R11. -/
abbrev Params.Legal (p : Params) : Prop := (p.encCap = 254 ∨ p.encCap = 257) ∧ 1 ≤ p.phyMax

/-- Which neighbours are attached (R223, R224; log 9). -/
structure Wiring where
  physical : Bool
  upper : Bool
  events : Bool
deriving DecidableEq, Repr

/-- One downward call: the bytes submitted and the answer (R131, R206). -/
structure PhyCall where
  bytes : List Byte
  answer : Int
deriving DecidableEq, Repr

/-- The result of an operation (R15, R60). -/
inductive OpResult where
  /-- CRC.CALC's u16 (R94). -/
  | crc (k : U16)
  /-- COBS.ENC's encoded body (R100). -/
  | encoded (s : List Byte)
  /-- COBS.DEC's decoded bytes and `consumed` (R110). -/
  | decoded (s : List Byte) (consumed : Nat)
  /-- A Link Layer operation's integer; success is 0 (R15, R193). -/
  | int (r : Int)
  /-- LINK.RESET has no result (R171; log 14). -/
  | noResult
  /-- `Err(E)` (R190). -/
  | err (e : ErrName)
deriving DecidableEq, Repr

/-- One entry of the block's output, everything a program can observe of it (R16). -/
inductive Output where
  /-- The result of an operation (R15). -/
  | result (r : OpResult)
  /-- `emit EV` (R198). -/
  | event (ev : Event)
  /-- `deliver s` (R158). -/
  | delivery (payload : List Byte)
  /-- `phy_send(s) -> r` (R206). -/
  | phyCall (c : PhyCall)
deriving DecidableEq, Repr

/-- The whole state. The output is one append-only list in the order of the statements executed, so that the order of an
event and a delivery shows (R198, R204; log 13). -/
structure State where
  linkState : LinkState
  outgoing : List Byte
  incoming : List Byte
  walk : Option Walk
  params : Params
  wiring : Wiring
  pending : List TableWord
  outputs : List Output
deriving DecidableEq, Repr

/-- The block has no trap and no step that stops it as a fault (R202): an error result, an event or the state ERROR
takes a fault's place, and each of them is a next state. So nothing raises a fault. DEDUCED (log 16), safe. -/
inductive Fault
deriving DecidableEq, Repr

/-- Why a word is given no step. All safe: a claim about such a step becomes unprovable, none becomes provable. -/
inductive Refusal where
  /-- An instruction without a meaning in exec; none is left. Safe. -/
  | notModelled (mnemonic : String)
  /-- Raised by step: the word at the head of `pending` is no instruction (log 1). Safe. -/
  | undecodable (e : DecodeError)
  /-- Raised by the three unassigned rows: an unassigned operation code selects no operation (R63). Safe. -/
  | unassignedOpcode (op : BitVec 4)
  /-- Raised by every instruction that would start in SENDING (R178, U8; log 7). Safe. -/
  | startedInSending
  /-- Raised by COBS.ENC of the empty input with `out_cap = 0` (R101, U3; log 8). Safe. -/
  | encEmptyNoRoom
  /-- Raised by LINK.POUT: the answer `r` is greater than the count of bytes submitted (R131, U6; log 6). Safe. -/
  | answerTooLarge
  /-- Raised by LINK.POUT: a downward call with no Physical Layer attached (R224, U11; log 9). Safe. -/
  | noPhysicalLayer
  /-- Raised by LINK.PIN and FRAME.TYPE.DATA: a delivery with no upper layer attached (R224, U11; log 9). Safe. -/
  | noUpperLayer
  /-- Raised by LINK.SEND, LINK.RX, LINK.PIN, WIRE.DELIMITER and FRAME.TYPE.DATA: an event with no event manager
  attached (R224, U11; log 9). Safe. -/
  | noEventManager
  /-- Raised by the wire symbols: the incoming queue does not hold this symbol at the walk's position (log 3). Safe. -/
  | symbolNotHere
deriving DecidableEq, Repr

/-- The state after power-on of a block with the parameters `p`: R34, R221, every neighbour attached (R223), no word
waiting (log 2). -/
def State.resetWith (p : Params) : State where
  linkState := .ready
  outgoing := []
  incoming := []
  walk := none
  params := p
  wiring := ⟨true, true, true⟩
  pending := []
  outputs := []

/-- The state after reset with R11's default parameters. -/
def State.reset : State := State.resetWith Params.default

end Sys2Proof.Machine
end

