-- ==== Sys2Proof/Machine/Ops.lean ====
section
/-! DEFINITION. The named operations over the state: the queue operations of R48 and R49, the output transactions of
R14, the boundary at which an operation starts, and the return of a result or an error (R15, R190), which stands where a
machine with traps would take an exception (R202). -/

namespace Sys2Proof.Machine

/-- What a step answers. -/
abbrev Outcome := Host.Outcome State Fault Refusal

/-- Go on from a next state; a fault or a refusal ends the operation and nothing of it remains. -/
def andThen (o : Outcome) (k : State → Outcome) : Outcome :=
  match o with
  | .next s => k s
  | .fault r => .fault r
  | .refused r => .refused r

/-- A queue operation keeps this form: at most 514 bytes (R22, R23, R37 (a)). -/
abbrev Memory.wf (q : List Byte) : Prop := q.length ≤ Config.queueCap

/-- The room test before an append (R48, R126, R142). -/
abbrev fits (q s : List Byte) : Prop := q.length + s.length ≤ Config.queueCap

/-- One byte of a queue; at or beyond the queue's length there is none (R22, R23, R35). -/
def readByte (q : List Byte) (i : Nat) : Option Byte := q[i]?

/-- Queue append (R48) to the outgoing queue. -/
def State.appendOutgoing (s : State) (w : List Byte) : State := { s with outgoing := s.outgoing ++ w }

/-- Head removal (R49) from the outgoing queue. -/
def State.dropOutgoing (s : State) (k : Nat) : State := { s with outgoing := s.outgoing.drop k }

/-- Queue append (R48) to the incoming queue. -/
def State.appendIncoming (s : State) (w : List Byte) : State := { s with incoming := s.incoming ++ w }

/-- Head removal (R49) from the incoming queue. -/
def State.dropIncoming (s : State) (k : Nat) : State := { s with incoming := s.incoming.drop k }

/-- `incoming_len <- 0` (R142). -/
def State.clearIncoming (s : State) : State := { s with incoming := [] }

/-- The engine's working registers, alive. -/
def State.setWalk (s : State) (w : Walk) : State := { s with walk := some w }

/-- The engine's working registers die (R25, R28, R36). -/
def State.endWalk (s : State) : State := { s with walk := none }

/-- The output grows by one entry (R198). -/
def State.output (s : State) (o : Output) : State := { s with outputs := s.outputs ++ [o] }

/-- The result of an operation goes to the host (R15, R16). -/
def State.pushResult (s : State) (r : OpResult) : State := s.output (.result r)

/-- The operation ends with this result (R14, `return v`). -/
def returns (r : OpResult) (s : State) : Outcome := .next (s.pushResult r)

/-- The operation ends with an error result: that is its whole effect; no state is saved, no mode changes and control
stays with the host (R190, R202). -/
def returnErr (e : ErrName) (s : State) : Outcome := returns (.err e) s

/-- `emit EV` (R14, R198): appended to the output; refused when no event manager is attached (R224). -/
def emit (ev : Event) (s : State) : Outcome :=
  if s.wiring.events then .next (s.output (.event ev)) else .refused .noEventManager

/-- `deliver s` (R14, R158): appended to the output; refused when no upper layer is attached (R224). -/
def deliver (payload : List Byte) (s : State) : Outcome :=
  if s.wiring.upper then .next (s.output (.delivery payload)) else .refused .noUpperLayer

/-- `phy_send(bytes) -> r` (R14, R206, R207): recorded with its answer; refused when no Physical Layer is attached
(R224) and when the answer is greater than the count submitted (R131; log 6). -/
def phySend (bytes : List Byte) (r : Int) (s : State) : Outcome :=
  if s.wiring.physical then
    if r ≤ bytes.length then .next (s.output (.phyCall ⟨bytes, r⟩))
    else .refused .answerTooLarge
  else .refused .noPhysicalLayer

/-- Nothing starts while the block is inside the downward call (R178, U8; log 7). -/
def unlessSending (k : State → Outcome) (s : State) : Outcome :=
  if s.linkState = .sending then .refused .startedInSending else k s

/-- An operation of R60 starts at an operation boundary: never in SENDING (R178), and with no working register alive
(R25, R28, R36; log 4). -/
def operation (k : State → Outcome) (s : State) : Outcome :=
  unlessSending (fun s => k s.endWalk) s

end Sys2Proof.Machine
end

