-- ==== Sys2Proof/Machine/Flags.lean ====
section
/-! DEFINITION. The block has no condition codes; its one status element is `link_state`, whose value ERROR is a sticky
error flag (R32). Every write of it (R176). -/

namespace Sys2Proof.Machine

/-- `link_state <- ERROR` (R155, R157). -/
def State.enterError (s : State) : State := { s with linkState := .error }

/-- `link_state <- READY` (R132, R156). -/
def State.enterReady (s : State) : State := { s with linkState := .ready }

/-- `link_state <- SENDING`, inside LINK.POUT only (R132). -/
def State.enterSending (s : State) : State := { s with linkState := .sending }

/-- The auto-reset of LINK.SEND: ERROR to READY, nothing else (R122). It is one of the ways out of ERROR (R203). -/
def State.autoReset (s : State) : State := if s.linkState = .error then s.enterReady else s

end Sys2Proof.Machine
end

