-- ==== Sys2Proof/Machine/LinkCtrl.lean ====
section
/-! DEFINITION. Link control: LINK.RESET (R171), LINK.MAXPL (R173), and the unassigned operation codes (R63). -/

namespace Sys2Proof.Machine

/-- `link_state <- READY; outgoing_len <- 0; incoming_len <- 0` (R171). -/
def State.linkReset (s : State) : State := { s with linkState := .ready, outgoing := [], incoming := [] }

/-- LINK.RESET (R171): no event, no call, no delivery, no result (log 13, log 14). -/
def execLinkReset (s : State) : Outcome :=
  operation (fun s => returns .noResult s.linkReset) s

/-- LINK.MAXPL (R173): 250. -/
def execLinkMaxpl (s : State) : Outcome :=
  operation (returns (.int Config.linkMaxPayload)) s

/-- An unassigned operation code selects no operation: no step, no state change, no result (R63, U12). -/
def refuseOpcode (op : BitVec 4) (_s : State) : Outcome := .refused (.unassignedOpcode op)

/-- Operation code 0x9 (R63). -/
def execUnassigned9 (s : State) : Outcome := refuseOpcode 0x9 s

/-- Operation codes 0xA and 0xB (R63). -/
def execUnassignedAB (x : BitVec 1) (s : State) : Outcome := refuseOpcode (0b101#3 ++ x) s

/-- Operation codes 0xC to 0xF (R63). -/
def execUnassignedCF (x : BitVec 2) (s : State) : Outcome := refuseOpcode (0b11#2 ++ x) s

end Sys2Proof.Machine
end

