-- ==== Sys2Proof/Machine/Operands.lean ====
section
/-! DEFINITION. The forms of the operands and of the fields inside a byte sequence: the position of the first delimiter
(R111), the two halves of a 16-bit field and their order (R43), the head the block submits (R131). -/

namespace Sys2Proof.Machine

/-- The least index of a byte 0x00 (R111: "find the delimiter"). -/
def firstZero : List Byte → Option Nat
  | [] => none
  | b :: t => if b = Config.delim then some 0 else (firstZero t).map (· + 1)

/-- `k[7:0]` (R43). -/
def loByte (k : U16) : Byte := k.extractLsb' 0 8

/-- `k[15:8]` (R43). -/
def hiByte (k : U16) : Byte := k.extractLsb' 8 8

/-- A 16-bit field in its wire order, low byte first (R43, R68). -/
def leBytes (k : U16) : List Byte := [loByte k, hiByte k]

/-- `zext_16(lo) + 256 * zext_16(hi)` (R43). -/
def assemble (lo hi : Byte) : U16 := lo.setWidth 16 + 256 * hi.setWidth 16

/-- The bytes of the outgoing queue that one downward call submits: the first `min(outgoing_len, PHY_MAX_PAYLOAD)`
(R131). -/
def State.submission (s : State) : List Byte := s.outgoing.take (min s.outgoing.length s.params.phyMax)

/-- The result an output entry is, if it is one. -/
def Output.asResult : Output → Option OpResult
  | .result r => some r
  | .event _ => none
  | .delivery _ => none
  | .phyCall _ => none

/-- The event an output entry is, if it is one. -/
def Output.asEvent : Output → Option Event
  | .result _ => none
  | .event ev => some ev
  | .delivery _ => none
  | .phyCall _ => none

/-- The delivered payload an output entry is, if it is one. -/
def Output.asDelivery : Output → Option (List Byte)
  | .result _ => none
  | .event _ => none
  | .delivery payload => some payload
  | .phyCall _ => none

/-- The downward call an output entry is, if it is one. -/
def Output.asPhyCall : Output → Option PhyCall
  | .result _ => none
  | .event _ => none
  | .delivery _ => none
  | .phyCall c => some c

/-- The four sequences of R16: the results of the operations, in order. -/
def State.results (s : State) : List OpResult := s.outputs.filterMap Output.asResult

/-- The event output (R198), in order. -/
def State.events (s : State) : List Event := s.outputs.filterMap Output.asEvent

/-- The delivery output (R158), in order. -/
def State.delivered (s : State) : List (List Byte) := s.outputs.filterMap Output.asDelivery

/-- The downward calls (R206), in order. -/
def State.phyCalls (s : State) : List PhyCall := s.outputs.filterMap Output.asPhyCall

/-- The bytes the Physical Layer took in one call: the first `r` when `r > 0`, else none (R207). -/
def PhyCall.accepted (c : PhyCall) : List Byte := c.bytes.take c.answer.toNat

/-- Every byte the Physical Layer has taken, in order (R137). -/
def State.acceptedBytes (s : State) : List Byte := (s.phyCalls.map PhyCall.accepted).flatten

/-- The integer a result is, where it is one, under an assignment of numerals to the error names (R193): `Err(E)` is
E's numeral, a Link Layer integer is itself. -/
def OpResult.numeral (num : ErrName → Int) : OpResult → Option Int
  | .crc _ => none
  | .encoded _ => none
  | .decoded _ _ => none
  | .int r => some r
  | .noResult => none
  | .err e => some (num e)

/-- The integer a result is on this block, whose numerals are open (R193; log 11). -/
def OpResult.code (r : OpResult) : Option Int := r.numeral Config.errorNumeral

/-- The numeral of an event on this block, open (R198; log 11). -/
def eventCode (ev : Event) : Int := Config.eventNumeral ev

end Sys2Proof.Machine
end

