-- ==== Sys2Proof/Machine/Cobs.lean ====
section
/-! DEFINITION. The COBS codec: COBS.ENC (R101 to R103) and COBS.DEC (R111, R113). -/

namespace Sys2Proof.Machine

/-- The encoder's working registers (R27): the output written so far, whose length is `out_len`, the position reserved
for the current code byte, and the counter `code`. A reserved position holds 0x00 until it is written (log 19). -/
structure EncRegs where
  out : List Byte
  codeIndex : Nat
  code : Nat
deriving DecidableEq, Repr

/-- Position 0 is reserved for the first code byte (R103). -/
def encInit : EncRegs := ⟨[0], 0, 1⟩

/-- `out[code_index] <- code` (R103). -/
def encClose (r : EncRegs) : List Byte := r.out.set r.codeIndex (BitVec.ofNat 8 r.code)

/-- A run ends: write its code, reset `code` to 1, reserve the next output position (R103). -/
def encReserve (r : EncRegs) : EncRegs := ⟨encClose r ++ [0], r.out.length, 1⟩

/-- One input byte (R103). -/
def encStep (r : EncRegs) (b : Byte) : EncRegs :=
  if b = Config.delim then encReserve r
  else if r.code + 1 = 0xFF then encReserve ⟨r.out ++ [b], r.codeIndex, r.code + 1⟩
  else ⟨r.out ++ [b], r.codeIndex, r.code + 1⟩

/-- The encode algorithm for a nonempty input of at most 254 bytes (R103). -/
def cobsEncodeBody (inp : List Byte) : List Byte := encClose (inp.foldl encStep encInit)

/-- The output capacity the encoder asks for, `N + N/254 + 1` (R101, check 3). -/
def encBound (n : Nat) : Nat := n + n / 254 + 1

/-- COBS encode of a sequence that is not NULL, checks 2 to 4 of R101 and the algorithm of R103. -/
def cobsEncode (inp : List Byte) (outCap : Nat) : Except ErrName (List Byte) :=
  if inp.length > Config.cobsMaxInput then .error .invalidInput
  else if outCap < encBound inp.length then .error .outputTooSmall
  else if inp = [] then .ok []
  else .ok (cobsEncodeBody inp)

/-- The decoder's working registers (R28): the read position and the output, whose length is `out_len`. -/
structure DecRegs where
  p : Nat
  out : List Byte
deriving DecidableEq, Repr

/-- One run of the body `inp[0 .. d)` (R113): overrun before capacity, data copied, and one implicit zero unless the
run is full or the last. -/
def decodeRun (inp : List Byte) (d outCap : Nat) (r : DecRegs) : Except ErrName DecRegs :=
  let c := (inp.getD r.p 0).toNat
  if r.p + c > d then .error .invalidInput
  else if r.out.length + (c - 1) > outCap then .error .outputTooSmall
  else
    let out := r.out ++ (inp.drop (r.p + 1)).take (c - 1)
    if c ≠ 0xFF ∧ r.p + c ≠ d then
      if out.length + 1 > outCap then .error .outputTooSmall else .ok ⟨r.p + c, out ++ [0]⟩
    else .ok ⟨r.p + c, out⟩

/-- The decode loop `while p < d` (R113). Every pass adds at least 1 to `p`, so `d` passes are enough: `fuel` starts
at `d` and never ends the loop early. -/
def decodeRuns (inp : List Byte) (d outCap : Nat) : Nat → DecRegs → Except ErrName (List Byte)
  | 0, r => .ok r.out
  | fuel + 1, r =>
    if r.p < d then
      match decodeRun inp d outCap r with
      | .error e => .error e
      | .ok r' => decodeRuns inp d outCap fuel r'
    else .ok r.out

/-- COBS decode of a sequence that is not NULL (R111): the decoded bytes and `consumed`. -/
def cobsDecode (inp : List Byte) (outCap : Nat) : Except ErrName (List Byte × Nat) :=
  match firstZero inp with
  | none => .error .incomplete
  | some d =>
    if d = 0 then .ok ([], 1)
    else
      match decodeRuns inp d outCap d ⟨0, []⟩ with
      | .error e => .error e
      | .ok out => .ok (out, d + 1)

/-- COBS.ENC (R101, R103). The one input the spec leaves unspecified and tells a model to refuse is the empty input with
`out_cap = 0` (U3; log 8). -/
def execCobsEnc (inp : Option (List Byte)) (outCap : Nat) (s : State) : Outcome :=
  operation (fun s =>
    match inp with
    | none => returnErr .invalidInput s
    | some x =>
      if x = [] ∧ outCap = 0 then .refused .encEmptyNoRoom
      else
        match cobsEncode x outCap with
        | .error e => returnErr e s
        | .ok out => returns (.encoded out) s) s

/-- COBS.DEC (R111). -/
def execCobsDec (inp : Option (List Byte)) (outCap : Nat) (s : State) : Outcome :=
  operation (fun s =>
    match inp with
    | none => returnErr .invalidInput s
    | some x =>
      match cobsDecode x outCap with
      | .error e => returnErr e s
      | .ok (out, consumed) => returns (.decoded out consumed) s) s

end Sys2Proof.Machine
end

