-- ==== Sys2Proof/Machine/LinkTx.lean ====
section
/-! DEFINITION. The Link Layer's transmit path: LINK.SEND (R127) and LINK.POUT (R134). -/

namespace Sys2Proof.Machine

/-- The frame LINK.SEND builds, `[0x01, len, payload…, crcLo, crcHi]` (R64, R123). -/
def linkFrame (payload : List Byte) : List Byte :=
  let body := [Config.frameTypeData, BitVec.ofNat 8 payload.length] ++ payload
  body ++ leBytes (crc16 body)

/-- `WIRE(p)` (R80): the encoded frame and its delimiter, the bytes LINK.SEND appends (R125). -/
def wire (payload : List Byte) : List Byte := cobsEncodeBody (linkFrame payload) ++ [Config.delim]

/-- Steps 3 to 6 of LINK.SEND (R123 to R126): build, encode, append the delimiter, test the room, enqueue, emit. -/
def sendFrame (payload : List Byte) (s : State) : Outcome :=
  match cobsEncode (linkFrame payload) s.params.encCap with
  | .error _ => returnErr .general s
  | .ok e =>
    let w := e ++ [Config.delim]
    if fits s.outgoing w then
      andThen (emit .outgoingDataAvailable (s.appendOutgoing w)) (returns (.int 0))
    else returnErr .bufferFull s

/-- LINK.SEND (R127): validation (R121), auto-reset (R122), then the frame. -/
def execLinkSend (payload : SeqArg) (s : State) : Outcome :=
  operation (fun s =>
    match payload with
    | .null _ => returnErr .invalidParam s
    | .bytes p =>
      if p.length > Config.linkMaxPayload then returnErr .invalidParam s
      else sendFrame p s.autoReset) s

/-- LINK.POUT with the Physical Layer's answer `r` (R134): READY to SENDING to READY around the downward call, `r`
bytes removed if `r > 0`, `r` returned verbatim. -/
def execLinkPout (r : Int) (s : State) : Outcome :=
  operation (fun s =>
    if s.outgoing = [] ∨ s.linkState ≠ .ready then returns (.int 0) s
    else
      andThen (phySend s.submission r s.enterSending) (fun s =>
        returns (.int r) (s.dropOutgoing r.toNat).enterReady)) s

end Sys2Proof.Machine
end

