-- ==== Sys2Proof/Machine/LinkRx.lean ====
section
/-! DEFINITION. The Link Layer's receive path: LINK.RX (R144) and LINK.PIN (R150). -/

namespace Sys2Proof.Machine

/-- LINK.RX (R144): NULL is refused with an error result, an overflow clears the queue and drops the new bytes, else
append and emit. -/
def execLinkRx (bytes : SeqArg) (s : State) : Outcome :=
  operation (fun s =>
    match bytes with
    | .null _ => returnErr .invalidParam s
    | .bytes x =>
      if fits s.incoming x then andThen (emit .incomingDataAvailable (s.appendIncoming x)) (returns (.int 0))
      else returnErr .bufferFull s.clearIncoming) s

/-- What one pass of LINK.PIN concludes about the head of the incoming queue (R150, R201). -/
inductive Verdict where
  /-- Decode failure or fewer than 4 decoded bytes: advance one byte (step 3, R152). -/
  | skip
  /-- LENGTH test failed: drop the consumed frame (step 4, R153). -/
  | dropFrame (consumed : Nat)
  /-- CRC mismatch: ERROR, CRC_ERROR, drop the consumed frame (step 5, R155). -/
  | crcMismatch (consumed : Nat)
  /-- A DATA frame that passed every check (step 6, R156). -/
  | data (consumed : Nat) (payload : List Byte)
  /-- A reserved frame type (step 7, R157). -/
  | reserved (consumed : Nat)
deriving DecidableEq, Repr

/-- Steps 3 to 5 on a decoded body (R152 to R155): why the frame is not passed on, or the working registers of R29 of a
frame that is. -/
def checkFrame (decoded : List Byte) (consumed : Nat) : Except Verdict FrameRegs :=
  let n := decoded.length
  let len := decoded.getD 1 0
  let kCalc := crc16 (decoded.take (n - 2))
  let kRecv := assemble (decoded.getD (n - 2) 0) (decoded.getD (n - 1) 0)
  if n < 4 then .error .skip
  else if len.toNat > Config.linkMaxPayload ∨ n ≠ len.toNat + Config.frameOverhead then .error (.dropFrame consumed)
  else if kCalc ≠ kRecv then .error (.crcMismatch consumed)
  else .ok ⟨decoded, consumed, len, kCalc, kRecv⟩

/-- Steps 6 and 7 on a frame that passed the checks (R156, R157). -/
def typeVerdict (f : FrameRegs) : Verdict :=
  if f.decoded.getD 0 0 = Config.frameTypeData then .data f.consumed ((f.decoded.drop 2).take f.len.toNat)
  else .reserved f.consumed

/-- Steps 3 to 7 on a decoded body. -/
def parseFrame (decoded : List Byte) (consumed : Nat) : Verdict :=
  match checkFrame decoded consumed with
  | .error v => v
  | .ok f => typeVerdict f

/-- Steps 1 to 7 on the incoming queue; none is `Incomplete` (R151). -/
def headVerdict (q : List Byte) : Option Verdict :=
  match cobsDecode q Config.linkMaxFrameSize with
  | .error .incomplete => none
  | .error _ => some .skip
  | .ok (decoded, consumed) => some (parseFrame decoded consumed)

/-- The effect of a pass (R150): its transactions in the order of the pseudocode, then the removal. The engine's working
registers die with the pass (R29). -/
def applyVerdict (v : Verdict) (s : State) : Outcome :=
  match v with
  | .skip => .next (s.dropIncoming 1).endWalk
  | .dropFrame consumed => .next (s.dropIncoming consumed).endWalk
  | .crcMismatch consumed =>
    andThen (emit .crcError s.enterError) (fun s => .next (s.dropIncoming consumed).endWalk)
  | .data consumed payload =>
    andThen (deliver payload s) (fun s =>
      andThen (emit .frameReceived s) (fun s => .next (s.enterReady.dropIncoming consumed).endWalk))
  | .reserved consumed => .next (s.enterError.dropIncoming consumed).endWalk

/-- The loop of LINK.PIN (R150). Every pass returns or removes at least one byte, so `incoming_len + 1` passes are
enough (R159): `fuel` starts there and never ends the loop early. -/
def pinLoop : Nat → State → Outcome
  | 0, s => .next s
  | fuel + 1, s =>
    match headVerdict s.incoming with
    | none => .next s
    | some v => andThen (applyVerdict v s) (fun s => pinLoop fuel s)

/-- LINK.PIN (R150): always returns 0. -/
def execLinkPin (s : State) : Outcome :=
  operation (fun s => andThen (pinLoop (s.incoming.length + 1) s) (returns (.int 0))) s

end Sys2Proof.Machine
end

