-- ==== Sys2Proof/Machine/Symbol.lean ====
section
/-! DEFINITION. The wire symbols: each is one inner step of the receive engine on the incoming queue, the part of
R111, R113 and R150 that meets this symbol. The engine's working registers (R28, R29) are in `walk` while a wire frame
is walked. DESIGN CHOICE (log 3), safe: the nine operations of R60 stay atomic and use none of these. -/

namespace Sys2Proof.Machine

/-- The registers a walk starts with, the delimiter at `d` (R111, R113: `p <- 0 ; out_len <- 0`). R36 gives `c` no value
before the first code byte is read: it holds 0, which nothing reads. DESIGN CHOICE (log 21), safe. -/
def BodyRegs.start (d : Nat) : BodyRegs := ⟨d, 0, 0, 0, []⟩

/-- A byte of the wire in the walk of a body. With no walk in progress one starts at the head of the queue: step 1 scans
for the delimiter, and without one the engine awaits more bytes (step 2, R151). -/
def inBody (k : BodyRegs → State → Outcome) (s : State) : Outcome :=
  match s.walk with
  | some (.body r) => k r s
  | some (.frame _) => .refused .symbolNotHere
  | none =>
    match firstZero s.incoming with
    | none => .next s
    | some d => k (BodyRegs.start d) s

/-- The end of a run: one implicit zero unless the run is full or the last (R113). -/
def endRun (r : BodyRegs) (s : State) : Outcome :=
  if r.c ≠ Config.cobsFullCode ∧ r.p ≠ r.d then
    if r.out.length + 1 > Config.linkMaxFrameSize then applyVerdict .skip s
    else .next (s.setWalk (.body { r with out := r.out ++ [0] }))
  else .next (s.setWalk (.body r))

/-- After a symbol of a run: the run goes on while data bytes are left. -/
def goOn (r : BodyRegs) (s : State) : Outcome :=
  if r.left = 0 then endRun r s else .next (s.setWalk (.body r))

/-- A code byte at a code position (R71, R113): overrun, then capacity, then the run begins. A failure is step 3 of
LINK.PIN (R152). -/
def codeByte (c : Byte) (r : BodyRegs) (s : State) : Outcome :=
  if r.left = 0 ∧ r.p < r.d ∧ readByte s.incoming r.p = some c then
    if r.p + c.toNat > r.d then applyVerdict .skip s
    else if r.out.length + (c.toNat - 1) > Config.linkMaxFrameSize then applyVerdict .skip s
    else goOn { r with p := r.p + 1, c := c, left := c.toNat - 1 } s
  else .refused .symbolNotHere

/-- A data byte at a data position: copied verbatim (R71, R113). -/
def dataByte (b : Byte) (r : BodyRegs) (s : State) : Outcome :=
  if r.left ≠ 0 ∧ readByte s.incoming r.p = some b then
    goOn { r with p := r.p + 1, left := r.left - 1, out := r.out ++ [b] } s
  else .refused .symbolNotHere

/-- The delimiter ends the body (R111, R113: `p = d`), and steps 3 to 5 of LINK.PIN follow (R152 to R155). -/
def delimiterByte (r : BodyRegs) (s : State) : Outcome :=
  if r.left = 0 ∧ r.p = r.d ∧ readByte s.incoming r.d = some Config.delim then
    match checkFrame r.out (r.d + 1) with
    | .error v => applyVerdict v s
    | .ok f => .next (s.setWalk (.frame f))
  else .refused .symbolNotHere

/-- The TYPE byte of a frame that passed steps 3 to 5: step 6 or 7 of LINK.PIN (R156, R157). -/
def typeByte (t : Byte) (s : State) : Outcome :=
  match s.walk with
  | some (.frame f) => if f.decoded.head? = some t then applyVerdict (typeVerdict f) s else .refused .symbolNotHere
  | some (.body _) => .refused .symbolNotHere
  | none => .refused .symbolNotHere

/-- FRAME.TYPE.DATA: step 6 (R156). -/
def execFrameTypeData (s : State) : Outcome := unlessSending (typeByte Config.frameTypeData) s

/-- FRAME.TYPE.RESERVED: step 7 (R157). -/
def execFrameTypeReserved (t : Byte) (s : State) : Outcome := unlessSending (typeByte t) s

/-- WIRE.DELIMITER: the body ends (R111). -/
def execWireDelimiter (s : State) : Outcome := unlessSending (inBody delimiterByte) s

/-- COBS.CODE.RUN: a run of `c − 1` data bytes begins (R71, R113). -/
def execCobsCodeRun (c : Byte) (s : State) : Outcome := unlessSending (inBody (codeByte c)) s

/-- COBS.CODE.FULL: a run of 254 data bytes begins, with no implicit zero after it (R71, R113). -/
def execCobsCodeFull (s : State) : Outcome := unlessSending (inBody (codeByte Config.cobsFullCode)) s

/-- COBS.DATA: the byte is copied verbatim (R71, R113). -/
def execCobsData (d : Byte) (s : State) : Outcome := unlessSending (inBody (dataByte d)) s

/-- The symbol the walk of a body meets next: a data byte inside a run, else a code byte before the delimiter, else the
delimiter (R70, R113). -/
def nextInBody (q : List Byte) (r : BodyRegs) : Instr :=
  if r.left ≠ 0 then .cobsData (q.getD r.p 0)
  else if r.p < r.d then decodeCode (q.getD r.p 0)
  else .wireDelimiter

/-- The symbol the engine meets next; none when the queue holds no delimiter and no walk is in progress (R151). -/
def nextSymbol (s : State) : Option Instr :=
  match s.walk with
  | some (.body r) => some (nextInBody s.incoming r)
  | some (.frame f) =>
    some (if f.decoded.getD 0 0 = Config.frameTypeData then .frameTypeData else .frameTypeReserved (f.decoded.getD 0 0))
  | none => (firstZero s.incoming).map (fun d => nextInBody s.incoming (BodyRegs.start d))

end Sys2Proof.Machine
end

