-- ==== Sys2Proof/Machine/Dispatch.lean ====
section
/-! DEFINITION. The meaning of each instruction. -/

namespace Sys2Proof.Machine

def exec (i : Instr) (s : State) : Host.Outcome State Fault Refusal :=
  match i with
  | .crcCalc bytes => Sys2Proof.Machine.execCrcCalc bytes s
  | .cobsEnc inp outCap => Sys2Proof.Machine.execCobsEnc inp outCap s
  | .cobsDec inp outCap => Sys2Proof.Machine.execCobsDec inp outCap s
  | .linkSend payload => Sys2Proof.Machine.execLinkSend payload s
  | .linkRx bytes => Sys2Proof.Machine.execLinkRx bytes s
  | .linkPout r => Sys2Proof.Machine.execLinkPout r s
  | .linkPin => Sys2Proof.Machine.execLinkPin s
  | .linkReset => Sys2Proof.Machine.execLinkReset s
  | .linkMaxpl => Sys2Proof.Machine.execLinkMaxpl s
  -- unassigned operation codes (R63)
  | .unassigned9 => Sys2Proof.Machine.execUnassigned9 s
  | .unassignedAB x => Sys2Proof.Machine.execUnassignedAB x s
  | .unassignedCF x => Sys2Proof.Machine.execUnassignedCF x s
  -- wire symbols
  | .frameTypeData => Sys2Proof.Machine.execFrameTypeData s
  | .frameTypeReserved t => Sys2Proof.Machine.execFrameTypeReserved t s
  | .wireDelimiter => Sys2Proof.Machine.execWireDelimiter s
  | .cobsCodeRun c => Sys2Proof.Machine.execCobsCodeRun c s
  | .cobsCodeFull => Sys2Proof.Machine.execCobsCodeFull s
  | .cobsData d => Sys2Proof.Machine.execCobsData d s

end Sys2Proof.Machine
end

