-- ==== Sys2Proof/Machine/Fetch.lean ====
section
/-! DEFINITION. Sequencing in place of a program counter (R31): the block fetches no instruction, what runs next is the
host's word at the head of `pending` (log 2). And the receive engine run symbol by symbol. -/

namespace Sys2Proof.Machine

/-- The word at the head is taken. -/
def State.popPending (s : State) : State := { s with pending := s.pending.tail }

/-- A word the host issues next. -/
def State.pushPending (s : State) (w : TableWord) : State := { s with pending := w :: s.pending }

/-- Run the word that was taken: its instruction, or a refusal by name. -/
def runWord (w : TableWord) (s : State) : Outcome :=
  match decode w with
  | .ok i => exec i s
  | .error e => .refused (.undecodable e)

/-- With nothing issued the block waits and does nothing on its own (R199, R222, R225). -/
def runPending (s : State) : Outcome :=
  match s.pending with
  | [] => .next s
  | w :: _ => runWord w s.popPending

/-- At most `n` symbols of the receive engine, each the one it meets next, until none is left (log 3). -/
def runSymbols : Nat → State → Outcome
  | 0, s => .next s
  | n + 1, s =>
    match nextSymbol s with
    | none => .next s
    | some i => andThen (exec i s) (fun s => runSymbols n s)

end Sys2Proof.Machine
end

