-- ==== Sys2Proof/Machine/Step.lean ====
section
/-! DEFINITION. One step of the block: the host's next word is run (R8, R31). -/

namespace Sys2Proof.Machine

/-- One step. -/
def step (s : State) : Host.Outcome State Fault Refusal := runPending s

/-- The word of the opcode table with the bits `w` becomes the next word the host issues; bits that are no word change
nothing (log 1, log 2). -/
def State.withFetchWord (s : State) (nbits w : Nat) : State :=
  match tableWord nbits w with
  | none => s
  | some word => s.pushPending word

end Sys2Proof.Machine
end

