-- ==== Sys2Proof/Safety.lean ====
section
/-! DEFINITION. The terms claims use: when an operation may start, what an operation without any other effect leaves,
what holds of every state a run reaches (R37), and two blocks joined by a lossless channel (95_test_vectors.md
section 2.9, T3). -/

namespace Sys2Proof.Machine

/-- An operation may start: the block is not inside the downward call (R37 (b), R178). -/
abbrev State.AtBoundary (s : State) : Prop := s.linkState ≠ .sending

/-- Every neighbour is attached, the premise of every claim (R223). -/
abbrev State.Wired (s : State) : Prop := s.wiring = ⟨true, true, true⟩

/-- What an operation leaves whose one effect is its result: the result appended, no working register alive. -/
def State.answered (s : State) (r : OpResult) : State := { s with walk := none, outputs := s.outputs ++ [.result r] }

/-- Both queues within their capacity (R22, R23, R37 (a)). -/
abbrev State.QueuesFit (s : State) : Prop := Memory.wf s.outgoing ∧ Memory.wf s.incoming

/-- No byte of the sequence is 0x00. -/
abbrev ZeroFree (q : List Byte) : Prop := ∀ b ∈ q, b ≠ 0

/-- Nothing is left to do (R226): nothing to transmit, and no whole wire frame waits. -/
abbrev State.Quiescent (s : State) : Prop := s.outgoing = [] ∧ ZeroFree s.incoming

/-- The outgoing queue's content: whole wire frames of payloads LINK.SEND accepts, the first with some of its head
possibly removed already (R22, R37 (c)). -/
def OutgoingIsWireFrames (q : List Byte) : Prop :=
  ∃ (first rest : List Byte) (ps : List (List Byte)),
    first.length ≤ Config.linkMaxPayload ∧ rest <:+ wire first ∧
    (∀ p ∈ ps, p.length ≤ Config.linkMaxPayload) ∧ q = rest ++ (ps.map wire).flatten

/-- The working registers of a walk agree with the queue they walk (R28, R29, R113): the delimiter position is the first
0x00, the run under way ends at or before it, and the decode scratch holds what is still to come; a frame that waits for
its TYPE passed steps 3 to 5. -/
def Walk.Agrees (q : List Byte) : Walk → Prop
  | .body r => firstZero q = some r.d ∧ r.p + r.left ≤ r.d ∧ r.out.length + r.left ≤ Config.linkMaxFrameSize
  | .frame f =>
    firstZero q = some (f.consumed - 1) ∧ 1 ≤ f.consumed ∧ f.decoded.length ≤ Config.linkMaxFrameSize ∧
    checkFrame f.decoded f.consumed = .ok f

/-- A walk in progress agrees with the incoming queue, and every payload delivered so far had at most 250 bytes
(R158). -/
def State.WalkAgrees (s : State) : Prop :=
  (∀ w, s.walk = some w → w.Agrees s.incoming) ∧ ∀ x ∈ s.delivered, x.length ≤ Config.linkMaxPayload

/-- The engine is at this point of a body: a walk in progress has these registers, or none is in progress and one would
start with them, the queue's first delimiter at `d` (R111, R113). -/
abbrev State.Walking (s : State) (r : BodyRegs) : Prop :=
  s.walk = some (.body r) ∨ (s.walk = none ∧ firstZero s.incoming = some r.d ∧ r = BodyRegs.start r.d)

/-- A decoded body passes steps 3 and 4 of LINK.PIN: 4 bytes or more, and LENGTH agrees (R152, R153). -/
abbrev RightLength (decoded : List Byte) : Prop :=
  4 ≤ decoded.length ∧ (decoded.getD 1 0).toNat ≤ 250 ∧ decoded.length = (decoded.getD 1 0).toNat + 4

/-- The trailer of a decoded body, low byte first, is the CRC of what stands before it (R154). -/
abbrev RightCrc (decoded : List Byte) : Prop :=
  crc16 (decoded.take (decoded.length - 2)) =
    assemble (decoded.getD (decoded.length - 2) 0) (decoded.getD (decoded.length - 1) 0)

/-- The `len` payload bytes of a decoded body (R156). -/
def payloadOf (decoded : List Byte) : List Byte := (decoded.drop 2).take (decoded.getD 1 0).toNat

/-- The frames LINK.PIN examines beyond their LENGTH in a queue, decoded, in their order: a head that fails to decode or is
shorter than 4 bytes costs one byte (R152), a wrong LENGTH the consumed bytes (R153), a frame of right LENGTH is
examined (R154 to R157). Every pass removes a byte, so as many passes as bytes are enough (R159). -/
def examinedFrames : Nat → List Byte → List (List Byte)
  | 0, _ => []
  | fuel + 1, q =>
    match cobsDecode q 254 with
    | .error .incomplete => []
    | .error _ => examinedFrames fuel (q.drop 1)
    | .ok (decoded, consumed) =>
      if decoded.length < 4 then examinedFrames fuel (q.drop 1)
      else if RightLength decoded then decoded :: examinedFrames fuel (q.drop consumed)
      else examinedFrames fuel (q.drop consumed)

/-- All of them. -/
def framesIn (q : List Byte) : List (List Byte) := examinedFrames q.length q

/-- A DATA frame with the right CRC, which is delivered (R156). -/
abbrev Deliverable (decoded : List Byte) : Prop := RightCrc decoded ∧ decoded.getD 0 0 = 0x01

/-- What an examined frame adds to the output: CRC_ERROR, or its payload and then FRAME_RECEIVED, or nothing (R155 to
R157, R198). -/
def frameOutputs (decoded : List Byte) : List Output :=
  if ¬RightCrc decoded then [.event .crcError]
  else if Deliverable decoded then [.delivery (payloadOf decoded), .event .frameReceived]
  else []

/-- What an examined frame leaves in `link_state` (R176). -/
def frameState (_ : LinkState) (decoded : List Byte) : LinkState := if Deliverable decoded then .ready else .error

/-- LINK.POUT once per answer, in order. -/
def transmit : List Int → State → Outcome
  | [], s => .next s
  | r :: rs, s => andThen (exec (.linkPout r) s) (fun s => transmit rs s)

/-- LINK.RX once per chunk, in order. -/
def deposit : List (List Byte) → State → Outcome
  | [], s => .next s
  | c :: cs, s => andThen (exec (.linkRx (.bytes c)) s) (fun s => deposit cs s)

end Sys2Proof.Machine
end

