-- ==== Sys2Proof/Laws/State.lean ====
section
/-! SUPPORT. One lemma per field per update of State, true by rfl, so that no proof unfolds a record update. -/

namespace Sys2Proof.Machine

variable (s : State)

@[simp] theorem State.appendOutgoing_linkState (w : List Byte) : (s.appendOutgoing w).linkState = s.linkState := rfl
@[simp] theorem State.appendOutgoing_outgoing (w : List Byte) : (s.appendOutgoing w).outgoing = s.outgoing ++ w := rfl
@[simp] theorem State.appendOutgoing_incoming (w : List Byte) : (s.appendOutgoing w).incoming = s.incoming := rfl
@[simp] theorem State.appendOutgoing_walk (w : List Byte) : (s.appendOutgoing w).walk = s.walk := rfl
@[simp] theorem State.appendOutgoing_params (w : List Byte) : (s.appendOutgoing w).params = s.params := rfl
@[simp] theorem State.appendOutgoing_wiring (w : List Byte) : (s.appendOutgoing w).wiring = s.wiring := rfl
@[simp] theorem State.appendOutgoing_pending (w : List Byte) : (s.appendOutgoing w).pending = s.pending := rfl
@[simp] theorem State.appendOutgoing_outputs (w : List Byte) : (s.appendOutgoing w).outputs = s.outputs := rfl

@[simp] theorem State.dropOutgoing_linkState (k : Nat) : (s.dropOutgoing k).linkState = s.linkState := rfl
@[simp] theorem State.dropOutgoing_outgoing (k : Nat) : (s.dropOutgoing k).outgoing = s.outgoing.drop k := rfl
@[simp] theorem State.dropOutgoing_incoming (k : Nat) : (s.dropOutgoing k).incoming = s.incoming := rfl
@[simp] theorem State.dropOutgoing_walk (k : Nat) : (s.dropOutgoing k).walk = s.walk := rfl
@[simp] theorem State.dropOutgoing_params (k : Nat) : (s.dropOutgoing k).params = s.params := rfl
@[simp] theorem State.dropOutgoing_wiring (k : Nat) : (s.dropOutgoing k).wiring = s.wiring := rfl
@[simp] theorem State.dropOutgoing_pending (k : Nat) : (s.dropOutgoing k).pending = s.pending := rfl
@[simp] theorem State.dropOutgoing_outputs (k : Nat) : (s.dropOutgoing k).outputs = s.outputs := rfl

@[simp] theorem State.appendIncoming_linkState (w : List Byte) : (s.appendIncoming w).linkState = s.linkState := rfl
@[simp] theorem State.appendIncoming_outgoing (w : List Byte) : (s.appendIncoming w).outgoing = s.outgoing := rfl
@[simp] theorem State.appendIncoming_incoming (w : List Byte) : (s.appendIncoming w).incoming = s.incoming ++ w := rfl
@[simp] theorem State.appendIncoming_walk (w : List Byte) : (s.appendIncoming w).walk = s.walk := rfl
@[simp] theorem State.appendIncoming_params (w : List Byte) : (s.appendIncoming w).params = s.params := rfl
@[simp] theorem State.appendIncoming_wiring (w : List Byte) : (s.appendIncoming w).wiring = s.wiring := rfl
@[simp] theorem State.appendIncoming_pending (w : List Byte) : (s.appendIncoming w).pending = s.pending := rfl
@[simp] theorem State.appendIncoming_outputs (w : List Byte) : (s.appendIncoming w).outputs = s.outputs := rfl

@[simp] theorem State.dropIncoming_linkState (k : Nat) : (s.dropIncoming k).linkState = s.linkState := rfl
@[simp] theorem State.dropIncoming_outgoing (k : Nat) : (s.dropIncoming k).outgoing = s.outgoing := rfl
@[simp] theorem State.dropIncoming_incoming (k : Nat) : (s.dropIncoming k).incoming = s.incoming.drop k := rfl
@[simp] theorem State.dropIncoming_walk (k : Nat) : (s.dropIncoming k).walk = s.walk := rfl
@[simp] theorem State.dropIncoming_params (k : Nat) : (s.dropIncoming k).params = s.params := rfl
@[simp] theorem State.dropIncoming_wiring (k : Nat) : (s.dropIncoming k).wiring = s.wiring := rfl
@[simp] theorem State.dropIncoming_pending (k : Nat) : (s.dropIncoming k).pending = s.pending := rfl
@[simp] theorem State.dropIncoming_outputs (k : Nat) : (s.dropIncoming k).outputs = s.outputs := rfl

@[simp] theorem State.clearIncoming_linkState : (s.clearIncoming).linkState = s.linkState := rfl
@[simp] theorem State.clearIncoming_outgoing : (s.clearIncoming).outgoing = s.outgoing := rfl
@[simp] theorem State.clearIncoming_incoming : (s.clearIncoming).incoming = [] := rfl
@[simp] theorem State.clearIncoming_walk : (s.clearIncoming).walk = s.walk := rfl
@[simp] theorem State.clearIncoming_params : (s.clearIncoming).params = s.params := rfl
@[simp] theorem State.clearIncoming_wiring : (s.clearIncoming).wiring = s.wiring := rfl
@[simp] theorem State.clearIncoming_pending : (s.clearIncoming).pending = s.pending := rfl
@[simp] theorem State.clearIncoming_outputs : (s.clearIncoming).outputs = s.outputs := rfl

@[simp] theorem State.setWalk_linkState (w : Walk) : (s.setWalk w).linkState = s.linkState := rfl
@[simp] theorem State.setWalk_outgoing (w : Walk) : (s.setWalk w).outgoing = s.outgoing := rfl
@[simp] theorem State.setWalk_incoming (w : Walk) : (s.setWalk w).incoming = s.incoming := rfl
@[simp] theorem State.setWalk_walk (w : Walk) : (s.setWalk w).walk = some w := rfl
@[simp] theorem State.setWalk_params (w : Walk) : (s.setWalk w).params = s.params := rfl
@[simp] theorem State.setWalk_wiring (w : Walk) : (s.setWalk w).wiring = s.wiring := rfl
@[simp] theorem State.setWalk_pending (w : Walk) : (s.setWalk w).pending = s.pending := rfl
@[simp] theorem State.setWalk_outputs (w : Walk) : (s.setWalk w).outputs = s.outputs := rfl

@[simp] theorem State.endWalk_linkState : (s.endWalk).linkState = s.linkState := rfl
@[simp] theorem State.endWalk_outgoing : (s.endWalk).outgoing = s.outgoing := rfl
@[simp] theorem State.endWalk_incoming : (s.endWalk).incoming = s.incoming := rfl
@[simp] theorem State.endWalk_walk : (s.endWalk).walk = none := rfl
@[simp] theorem State.endWalk_params : (s.endWalk).params = s.params := rfl
@[simp] theorem State.endWalk_wiring : (s.endWalk).wiring = s.wiring := rfl
@[simp] theorem State.endWalk_pending : (s.endWalk).pending = s.pending := rfl
@[simp] theorem State.endWalk_outputs : (s.endWalk).outputs = s.outputs := rfl

@[simp] theorem State.output_linkState (o : Output) : (s.output o).linkState = s.linkState := rfl
@[simp] theorem State.output_outgoing (o : Output) : (s.output o).outgoing = s.outgoing := rfl
@[simp] theorem State.output_incoming (o : Output) : (s.output o).incoming = s.incoming := rfl
@[simp] theorem State.output_walk (o : Output) : (s.output o).walk = s.walk := rfl
@[simp] theorem State.output_params (o : Output) : (s.output o).params = s.params := rfl
@[simp] theorem State.output_wiring (o : Output) : (s.output o).wiring = s.wiring := rfl
@[simp] theorem State.output_pending (o : Output) : (s.output o).pending = s.pending := rfl
@[simp] theorem State.output_outputs (o : Output) : (s.output o).outputs = s.outputs ++ [o] := rfl

@[simp] theorem State.pushResult_linkState (r : OpResult) : (s.pushResult r).linkState = s.linkState := rfl
@[simp] theorem State.pushResult_outgoing (r : OpResult) : (s.pushResult r).outgoing = s.outgoing := rfl
@[simp] theorem State.pushResult_incoming (r : OpResult) : (s.pushResult r).incoming = s.incoming := rfl
@[simp] theorem State.pushResult_walk (r : OpResult) : (s.pushResult r).walk = s.walk := rfl
@[simp] theorem State.pushResult_params (r : OpResult) : (s.pushResult r).params = s.params := rfl
@[simp] theorem State.pushResult_wiring (r : OpResult) : (s.pushResult r).wiring = s.wiring := rfl
@[simp] theorem State.pushResult_pending (r : OpResult) : (s.pushResult r).pending = s.pending := rfl
@[simp] theorem State.pushResult_outputs (r : OpResult) : (s.pushResult r).outputs = s.outputs ++ [.result r] := rfl

@[simp] theorem State.enterError_linkState : (s.enterError).linkState = .error := rfl
@[simp] theorem State.enterError_outgoing : (s.enterError).outgoing = s.outgoing := rfl
@[simp] theorem State.enterError_incoming : (s.enterError).incoming = s.incoming := rfl
@[simp] theorem State.enterError_walk : (s.enterError).walk = s.walk := rfl
@[simp] theorem State.enterError_params : (s.enterError).params = s.params := rfl
@[simp] theorem State.enterError_wiring : (s.enterError).wiring = s.wiring := rfl
@[simp] theorem State.enterError_pending : (s.enterError).pending = s.pending := rfl
@[simp] theorem State.enterError_outputs : (s.enterError).outputs = s.outputs := rfl

@[simp] theorem State.enterReady_linkState : (s.enterReady).linkState = .ready := rfl
@[simp] theorem State.enterReady_outgoing : (s.enterReady).outgoing = s.outgoing := rfl
@[simp] theorem State.enterReady_incoming : (s.enterReady).incoming = s.incoming := rfl
@[simp] theorem State.enterReady_walk : (s.enterReady).walk = s.walk := rfl
@[simp] theorem State.enterReady_params : (s.enterReady).params = s.params := rfl
@[simp] theorem State.enterReady_wiring : (s.enterReady).wiring = s.wiring := rfl
@[simp] theorem State.enterReady_pending : (s.enterReady).pending = s.pending := rfl
@[simp] theorem State.enterReady_outputs : (s.enterReady).outputs = s.outputs := rfl

@[simp] theorem State.enterSending_linkState : (s.enterSending).linkState = .sending := rfl
@[simp] theorem State.enterSending_outgoing : (s.enterSending).outgoing = s.outgoing := rfl
@[simp] theorem State.enterSending_incoming : (s.enterSending).incoming = s.incoming := rfl
@[simp] theorem State.enterSending_walk : (s.enterSending).walk = s.walk := rfl
@[simp] theorem State.enterSending_params : (s.enterSending).params = s.params := rfl
@[simp] theorem State.enterSending_wiring : (s.enterSending).wiring = s.wiring := rfl
@[simp] theorem State.enterSending_pending : (s.enterSending).pending = s.pending := rfl
@[simp] theorem State.enterSending_outputs : (s.enterSending).outputs = s.outputs := rfl

@[simp] theorem State.linkReset_linkState : (s.linkReset).linkState = .ready := rfl
@[simp] theorem State.linkReset_outgoing : (s.linkReset).outgoing = [] := rfl
@[simp] theorem State.linkReset_incoming : (s.linkReset).incoming = [] := rfl
@[simp] theorem State.linkReset_walk : (s.linkReset).walk = s.walk := rfl
@[simp] theorem State.linkReset_params : (s.linkReset).params = s.params := rfl
@[simp] theorem State.linkReset_wiring : (s.linkReset).wiring = s.wiring := rfl
@[simp] theorem State.linkReset_pending : (s.linkReset).pending = s.pending := rfl
@[simp] theorem State.linkReset_outputs : (s.linkReset).outputs = s.outputs := rfl

@[simp] theorem State.popPending_linkState : (s.popPending).linkState = s.linkState := rfl
@[simp] theorem State.popPending_outgoing : (s.popPending).outgoing = s.outgoing := rfl
@[simp] theorem State.popPending_incoming : (s.popPending).incoming = s.incoming := rfl
@[simp] theorem State.popPending_walk : (s.popPending).walk = s.walk := rfl
@[simp] theorem State.popPending_params : (s.popPending).params = s.params := rfl
@[simp] theorem State.popPending_wiring : (s.popPending).wiring = s.wiring := rfl
@[simp] theorem State.popPending_pending : (s.popPending).pending = s.pending.tail := rfl
@[simp] theorem State.popPending_outputs : (s.popPending).outputs = s.outputs := rfl

@[simp] theorem State.pushPending_linkState (w : TableWord) : (s.pushPending w).linkState = s.linkState := rfl
@[simp] theorem State.pushPending_outgoing (w : TableWord) : (s.pushPending w).outgoing = s.outgoing := rfl
@[simp] theorem State.pushPending_incoming (w : TableWord) : (s.pushPending w).incoming = s.incoming := rfl
@[simp] theorem State.pushPending_walk (w : TableWord) : (s.pushPending w).walk = s.walk := rfl
@[simp] theorem State.pushPending_params (w : TableWord) : (s.pushPending w).params = s.params := rfl
@[simp] theorem State.pushPending_wiring (w : TableWord) : (s.pushPending w).wiring = s.wiring := rfl
@[simp] theorem State.pushPending_pending (w : TableWord) : (s.pushPending w).pending = w :: s.pending := rfl
@[simp] theorem State.pushPending_outputs (w : TableWord) : (s.pushPending w).outputs = s.outputs := rfl

@[simp] theorem State.answered_linkState (r : OpResult) : (s.answered r).linkState = s.linkState := rfl
@[simp] theorem State.answered_outgoing (r : OpResult) : (s.answered r).outgoing = s.outgoing := rfl
@[simp] theorem State.answered_incoming (r : OpResult) : (s.answered r).incoming = s.incoming := rfl
@[simp] theorem State.answered_walk (r : OpResult) : (s.answered r).walk = none := rfl
@[simp] theorem State.answered_params (r : OpResult) : (s.answered r).params = s.params := rfl
@[simp] theorem State.answered_wiring (r : OpResult) : (s.answered r).wiring = s.wiring := rfl
@[simp] theorem State.answered_pending (r : OpResult) : (s.answered r).pending = s.pending := rfl
@[simp] theorem State.answered_outputs (r : OpResult) : (s.answered r).outputs = s.outputs ++ [.result r] := rfl

@[simp] theorem State.autoReset_outgoing : s.autoReset.outgoing = s.outgoing := by
  unfold State.autoReset; split <;> rfl
@[simp] theorem State.autoReset_incoming : s.autoReset.incoming = s.incoming := by
  unfold State.autoReset; split <;> rfl
@[simp] theorem State.autoReset_walk : s.autoReset.walk = s.walk := by
  unfold State.autoReset; split <;> rfl
@[simp] theorem State.autoReset_params : s.autoReset.params = s.params := by
  unfold State.autoReset; split <;> rfl
@[simp] theorem State.autoReset_wiring : s.autoReset.wiring = s.wiring := by
  unfold State.autoReset; split <;> rfl
@[simp] theorem State.autoReset_pending : s.autoReset.pending = s.pending := by
  unfold State.autoReset; split <;> rfl
@[simp] theorem State.autoReset_outputs : s.autoReset.outputs = s.outputs := by
  unfold State.autoReset; split <;> rfl

/-- The auto-reset leaves READY from READY and from ERROR (R122). -/
theorem State.autoReset_linkState {s : State} (h : s.AtBoundary) : s.autoReset.linkState = .ready := by
  unfold State.autoReset
  split
  · rfl
  · cases hl : s.linkState <;> simp_all

theorem State.autoReset_eq {s : State} (h : s.AtBoundary) : s.autoReset = s.enterReady := by
  unfold State.autoReset
  split
  · rfl
  · cases hl : s.linkState
    · cases s; simp_all [State.enterReady]
    · exact absurd hl h
    · simp_all

/-! The four views of the output: what is appended to the output is appended to each view. -/

theorem State.results_of_outputs {s t : State} {l : List Output} (h : t.outputs = s.outputs ++ l) :
    t.results = s.results ++ l.filterMap Output.asResult := by simp [State.results, h]
theorem State.events_of_outputs {s t : State} {l : List Output} (h : t.outputs = s.outputs ++ l) :
    t.events = s.events ++ l.filterMap Output.asEvent := by simp [State.events, h]
theorem State.delivered_of_outputs {s t : State} {l : List Output} (h : t.outputs = s.outputs ++ l) :
    t.delivered = s.delivered ++ l.filterMap Output.asDelivery := by simp [State.delivered, h]
theorem State.phyCalls_of_outputs {s t : State} {l : List Output} (h : t.outputs = s.outputs ++ l) :
    t.phyCalls = s.phyCalls ++ l.filterMap Output.asPhyCall := by simp [State.phyCalls, h]

end Sys2Proof.Machine
end

