-- ==== Sys2Proof/Laws/Ops.lean ====
section
/-! SUPPORT. What each shared operation of Machine/Ops.lean, Operands.lean and Flags.lean can do, once. -/

namespace Sys2Proof.Machine

/-! ### Going on -/

@[simp] theorem andThen_next (s : State) (k : State → Outcome) : andThen (.next s) k = k s := rfl
@[simp] theorem andThen_refused (r : Refusal) (k : State → Outcome) : andThen (.refused r) k = .refused r := rfl
@[simp] theorem andThen_fault (r : Fault) (k : State → Outcome) : andThen (.fault r) k = .fault r := rfl

theorem andThen_eq_next {o : Outcome} {k : State → Outcome} {t : State} :
    andThen o k = .next t ↔ ∃ u, o = .next u ∧ k u = .next t := by
  cases o <;> simp

theorem andThen_assoc (o : Outcome) (k l : State → Outcome) :
    andThen (andThen o k) l = andThen o (fun s => andThen (k s) l) := by
  cases o <;> rfl

/-! ### The boundary -/

@[simp] theorem unlessSending_of_atBoundary {s : State} (k : State → Outcome) (h : s.AtBoundary) :
    unlessSending k s = k s := if_neg h

theorem unlessSending_of_sending {s : State} (k : State → Outcome) (h : s.linkState = .sending) :
    unlessSending k s = .refused .startedInSending := if_pos h

theorem unlessSending_eq_next {k : State → Outcome} {s t : State} :
    unlessSending k s = .next t ↔ s.AtBoundary ∧ k s = .next t := by
  unfold unlessSending
  split <;> simp_all [State.AtBoundary]

@[simp] theorem operation_of_atBoundary {s : State} (k : State → Outcome) (h : s.AtBoundary) :
    operation k s = k s.endWalk := if_neg h

theorem operation_of_sending {s : State} (k : State → Outcome) (h : s.linkState = .sending) :
    operation k s = .refused .startedInSending := if_pos h

theorem operation_eq_next {k : State → Outcome} {s t : State} :
    operation k s = .next t ↔ s.AtBoundary ∧ k s.endWalk = .next t :=
  unlessSending_eq_next

/-! ### Results and transactions -/

@[simp] theorem returns_eq (r : OpResult) (s : State) : returns r s = .next (s.pushResult r) := rfl
@[simp] theorem returnErr_eq (e : ErrName) (s : State) : returnErr e s = .next (s.pushResult (.err e)) := rfl

theorem pushResult_endWalk (s : State) (r : OpResult) : s.endWalk.pushResult r = s.answered r := rfl

theorem emit_of_attached {s : State} (ev : Event) (h : s.wiring.events = true) :
    emit ev s = .next (s.output (.event ev)) := if_pos h

theorem emit_of_detached {s : State} (ev : Event) (h : s.wiring.events = false) :
    emit ev s = .refused .noEventManager := by simp [emit, h]

theorem emit_eq_next {ev : Event} {s t : State} :
    emit ev s = .next t ↔ s.wiring.events = true ∧ t = s.output (.event ev) := by
  unfold emit
  split <;> simp_all [eq_comm (b := t)]

theorem deliver_of_attached {s : State} (x : List Byte) (h : s.wiring.upper = true) :
    deliver x s = .next (s.output (.delivery x)) := if_pos h

theorem deliver_of_detached {s : State} (x : List Byte) (h : s.wiring.upper = false) :
    deliver x s = .refused .noUpperLayer := by simp [deliver, h]

theorem deliver_eq_next {x : List Byte} {s t : State} :
    deliver x s = .next t ↔ s.wiring.upper = true ∧ t = s.output (.delivery x) := by
  unfold deliver
  split <;> simp_all [eq_comm (b := t)]

theorem phySend_eq_next {x : List Byte} {r : Int} {s t : State} :
    phySend x r s = .next t ↔
      s.wiring.physical = true ∧ r ≤ x.length ∧ t = s.output (.phyCall ⟨x, r⟩) := by
  unfold phySend
  by_cases hr : r ≤ x.length
  · split <;> simp_all [eq_comm (b := t)]
  · split <;> simp [hr]

/-! ### The queues -/

/-- Append under the room test keeps the queue within its capacity (R48). -/
theorem append_wf {q w : List Byte} (h : fits q w) : Memory.wf (q ++ w) := by
  simpa [Memory.wf, fits] using h

/-- Head removal keeps the queue within its capacity (R49). -/
theorem drop_wf {q : List Byte} (k : Nat) (h : Memory.wf q) : Memory.wf (q.drop k) := by
  simp only [Memory.wf, List.length_drop] at *
  omega

theorem nil_wf : Memory.wf [] := by decide

/-- An append leaves every byte already in the queue (R48). -/
theorem readByte_append_left {q w : List Byte} {i : Nat} (h : i < q.length) : readByte (q ++ w) i = readByte q i :=
  List.getElem?_append_left h

/-- After head removal byte `i` is the old byte `i + k` (R49). -/
theorem readByte_drop (q : List Byte) (k i : Nat) : readByte (q.drop k) i = readByte q (k + i) :=
  List.getElem?_drop

/-! ### The first delimiter -/

@[simp] theorem zeroFree_nil : ZeroFree [] := fun _ h => nomatch h

theorem zeroFree_cons {c : Byte} {b : List Byte} : ZeroFree (c :: b) ↔ c ≠ 0 ∧ ZeroFree b := List.forall_mem_cons

theorem zeroFree_append {a b : List Byte} : ZeroFree (a ++ b) ↔ ZeroFree a ∧ ZeroFree b := List.forall_mem_append

@[simp] theorem firstZero_zero (t : List Byte) : firstZero (0 :: t) = some 0 := rfl

theorem firstZero_cons {c : Byte} (t : List Byte) (h : c ≠ 0) : firstZero (c :: t) = (firstZero t).map (· + 1) :=
  if_neg h

theorem firstZero_append_of_zeroFree {b : List Byte} (t : List Byte) (h : ZeroFree b) :
    firstZero (b ++ 0 :: t) = some b.length := by
  induction b with
  | nil => rfl
  | cons c b ih =>
    obtain ⟨hc, hb⟩ := zeroFree_cons.1 h
    rw [List.cons_append, firstZero_cons _ hc, ih hb]
    rfl

theorem firstZero_of_zeroFree {b : List Byte} (h : ZeroFree b) : firstZero b = none := by
  induction b with
  | nil => rfl
  | cons c b ih =>
    obtain ⟨hc, hb⟩ := zeroFree_cons.1 h
    rw [firstZero_cons _ hc, ih hb]
    rfl

/-- The queue up to its first delimiter, and after it. -/
theorem exists_of_firstZero {q : List Byte} {d : Nat} (h : firstZero q = some d) :
    ∃ b t, q = b ++ 0 :: t ∧ ZeroFree b ∧ b.length = d := by
  induction q generalizing d with
  | nil => cases h
  | cons c q ih =>
    by_cases hc : c = 0
    · subst hc
      cases h
      exact ⟨[], q, rfl, zeroFree_nil, rfl⟩
    · rw [firstZero_cons _ hc, Option.map_eq_some_iff] at h
      obtain ⟨e, he, rfl⟩ := h
      obtain ⟨b, t, rfl, hb, rfl⟩ := ih he
      exact ⟨c :: b, t, rfl, zeroFree_cons.2 ⟨hc, hb⟩, rfl⟩

theorem firstZero_eq_some_iff (q : List Byte) (d : Nat) :
    firstZero q = some d ↔ ∃ b t, q = b ++ 0 :: t ∧ ZeroFree b ∧ b.length = d :=
  ⟨exists_of_firstZero, fun ⟨_, t, hq, hb, hd⟩ => hq ▸ hd ▸ firstZero_append_of_zeroFree t hb⟩

theorem firstZero_eq_none_iff (q : List Byte) : firstZero q = none ↔ ZeroFree q := by
  refine ⟨fun h b hb hz => ?_, firstZero_of_zeroFree⟩
  obtain ⟨l, t, rfl⟩ := List.append_of_mem (hz ▸ hb)
  induction l with
  | nil => cases h
  | cons c l ih =>
    by_cases hc : c = 0
    · subst hc; cases h
    · rw [List.cons_append, firstZero_cons _ hc, Option.map_eq_none_iff] at h
      exact ih h (by simp [hz])

theorem firstZero_lt_length {q : List Byte} {d : Nat} (h : firstZero q = some d) : d < q.length := by
  obtain ⟨b, t, rfl, -, rfl⟩ := exists_of_firstZero h
  simp

/-! ### The two bytes of a 16-bit field -/

/-- A field written low byte first is read back (R43). -/
theorem assemble_lo_hi (k : U16) : assemble (loByte k) (hiByte k) = k := by
  apply BitVec.eq_of_toNat_eq
  have hk := k.isLt
  have h256 : (256 : U16).toNat = 256 := rfl
  simp only [assemble, loByte, hiByte, BitVec.toNat_add, BitVec.toNat_mul, BitVec.toNat_setWidth,
    BitVec.extractLsb'_toNat, Nat.shiftRight_eq_div_pow, h256]
  omega

end Sys2Proof.Machine
end

