-- ==== Sys2Proof/Laws/Cobs.lean ====
section
/-! SUPPORT. The COBS codec: what the encoder's and the decoder's steps do, once. -/

namespace Sys2Proof.Machine

/-! ### The encoder: the output is closed runs, a reserved position, and the data of the run under way -/

/-- Writing the code of the run under way (R103). -/
theorem encClose_run (done run : List Byte) (x : Byte) (code : Nat) :
    encClose ⟨done ++ x :: run, done.length, code⟩ = done ++ BitVec.ofNat 8 code :: run := by
  simp [encClose]

/-- A zero byte closes the run under way and reserves the next position (R103). -/
theorem encStep_zero (done run : List Byte) (x : Byte) (code : Nat) :
    encStep ⟨done ++ x :: run, done.length, code⟩ 0 =
      ⟨(done ++ BitVec.ofNat 8 code :: run) ++ [0], (done ++ BitVec.ofNat 8 code :: run).length, 1⟩ := by
  simp [encStep, encReserve, encClose]

/-- A nonzero byte extends the run under way (R103). -/
theorem encStep_data {b : Byte} (hb : b ≠ 0) (done run : List Byte) (x : Byte) {code : Nat} (hc : code + 1 ≠ 0xFF) :
    encStep ⟨done ++ x :: run, done.length, code⟩ b = ⟨done ++ x :: (run ++ [b]), done.length, code + 1⟩ := by
  rw [encStep, if_neg hb, if_neg hc]; simp

/-- The 254th nonzero byte of a run extends it and closes it as a full run (R103). -/
theorem encStep_full {b : Byte} (hb : b ≠ 0) (done run : List Byte) (x : Byte) {code : Nat} (hc : code + 1 = 0xFF) :
    encStep ⟨done ++ x :: run, done.length, code⟩ b =
      ⟨(done ++ 0xFF :: (run ++ [b])) ++ [0], (done ++ 0xFF :: (run ++ [b])).length, 1⟩ := by
  obtain rfl : code = 254 := by omega
  rw [encStep, if_neg hb, if_pos hc]; simp [encReserve, encClose]

/-- From closed runs without a zero and a run of at most 253 nonzero bytes, the encoder stays in that shape, and `code`
is always one more than the run's length, at most 254 (R105, R106). -/
theorem encFold_shape (x : List Byte) {done run : List Byte} (hd : ZeroFree done) (hr : ZeroFree run)
    (hlen : run.length ≤ 253) :
    ∃ done' run' : List Byte, ZeroFree done' ∧ ZeroFree run' ∧ run'.length ≤ 253 ∧
      x.foldl encStep ⟨done ++ 0 :: run, done.length, run.length + 1⟩ =
        ⟨done' ++ 0 :: run', done'.length, run'.length + 1⟩ := by
  induction x generalizing done run with
  | nil => exact ⟨done, run, hd, hr, hlen, rfl⟩
  | cons b x ih =>
    rw [List.foldl_cons]
    by_cases hb : b = 0
    · subst hb
      rw [encStep_zero]
      refine ih (zeroFree_append.2 ⟨hd, zeroFree_cons.2 ⟨fun h => ?_, hr⟩⟩) zeroFree_nil (by simp)
      have := congrArg BitVec.toNat h
      simp at this
      omega
    · have hrb : ZeroFree (run ++ [b]) := zeroFree_append.2 ⟨hr, zeroFree_cons.2 ⟨hb, zeroFree_nil⟩⟩
      by_cases hc : run.length + 1 + 1 = 0xFF
      · rw [encStep_full hb done run 0 hc]
        exact ih (zeroFree_append.2 ⟨hd, zeroFree_cons.2 ⟨by decide, hrb⟩⟩) zeroFree_nil (by simp)
      · rw [encStep_data hb done run 0 hc]
        have := ih hd hrb (by simp only [List.length_append, List.length_singleton]; omega)
        rwa [List.length_append, List.length_singleton] at this

/-! ### The decoder -/

/-- A run that decodes moves `p` by its code byte, not past the delimiter, and stays within the capacity (R113). -/
theorem decodeRun_ok {inp : List Byte} {d cap : Nat} {r r' : DecRegs} (h : decodeRun inp d cap r = .ok r') :
    r'.p = r.p + (inp.getD r.p 0).toNat ∧ r'.p ≤ d ∧ r'.out.length ≤ cap := by
  unfold decodeRun at h
  simp only at h
  generalize (inp.getD r.p 0).toNat = c at h ⊢
  have hdata : ((inp.drop (r.p + 1)).take (c - 1)).length ≤ c - 1 := List.length_take_le _ _
  generalize (inp.drop (r.p + 1)).take (c - 1) = data at h hdata
  split at h
  · cases h
  split at h
  · cases h
  split at h
  · split at h
    · cases h
    · cases h
      refine ⟨rfl, ?_, ?_⟩ <;> simp only [List.length_append, List.length_singleton] at * <;> omega
  · cases h
    refine ⟨rfl, ?_, ?_⟩ <;> simp only [List.length_append] at * <;> omega

/-- The decode loop never answers more bytes than the output capacity (R113, R114). -/
theorem decodeRuns_length {inp : List Byte} {d cap : Nat} (fuel : Nat) {r : DecRegs} {out : List Byte}
    (h : decodeRuns inp d cap fuel r = .ok out) (hcap : r.out.length ≤ cap) : out.length ≤ cap := by
  induction fuel generalizing r with
  | zero => cases h; exact hcap
  | succ fuel ih =>
    unfold decodeRuns at h
    split at h
    · split at h
      · cases h
      · rename_i r' hr
        exact ih h (decodeRun_ok hr).2.2
    · cases h; exact hcap

/-- The decode loop reports an overrun or a capacity failure, never `Incomplete` (R112, R114). -/
theorem decodeRuns_ne_incomplete (inp : List Byte) (d cap fuel : Nat) (r : DecRegs) :
    decodeRuns inp d cap fuel r ≠ .error .incomplete := by
  induction fuel generalizing r with
  | zero => simp [decodeRuns]
  | succ fuel ih =>
    unfold decodeRuns
    split
    · split
      · rename_i e he
        rintro h
        cases h
        simp only [decodeRun] at he
        split at he
        · cases he
        split at he
        · cases he
        split at he
        · split at he <;> cases he
        · cases he
      · exact ih _
    · simp

/-- `Incomplete` means exactly that the input holds no delimiter (R112). -/
theorem cobsDecode_incomplete_iff (inp : List Byte) (cap : Nat) :
    cobsDecode inp cap = .error .incomplete ↔ firstZero inp = none := by
  unfold cobsDecode
  split
  · simp [*]
  · rename_i d hd
    simp only [hd, reduceCtorEq, iff_false]
    split
    · simp
    · split
      · rename_i e he
        rintro h
        cases h
        exact decodeRuns_ne_incomplete _ _ _ _ _ he
      · simp

/-- On success `consumed` is the delimiter's position plus one (R115). -/
theorem cobsDecode_consumed {inp : List Byte} {cap : Nat} {out : List Byte} {n : Nat}
    (h : cobsDecode inp cap = .ok (out, n)) : ∃ d, firstZero inp = some d ∧ n = d + 1 := by
  unfold cobsDecode at h
  split at h
  · cases h
  · rename_i d hd
    refine ⟨d, hd, ?_⟩
    split at h
    · cases h; omega
    · split at h
      · cases h
      · cases h; rfl

end Sys2Proof.Machine
end

