-- ==== Sys2Proof/Laws/LinkRx.lean ====
section
/-! SUPPORT. The receive path: what one pass of LINK.PIN can do, and that its loop ends by itself (R159). -/

namespace Sys2Proof.Machine

/-- How many bytes a pass removes from the head of the incoming queue. -/
def Verdict.removed : Verdict → Nat
  | .skip => 1
  | .dropFrame n => n
  | .crcMismatch n => n
  | .data n _ => n
  | .reserved n => n

/-- What a pass adds to the output, in its order (R155, R156, R198): a delivery stands before its event. -/
def Verdict.outputs : Verdict → List Output
  | .skip => []
  | .dropFrame _ => []
  | .crcMismatch _ => [.event .crcError]
  | .data _ payload => [.delivery payload, .event .frameReceived]
  | .reserved _ => []

/-- What a pass makes of `link_state` (R152 to R157, R176). -/
def Verdict.leaves : Verdict → LinkState → LinkState
  | .skip, l => l
  | .dropFrame _, l => l
  | .crcMismatch _, _ => .error
  | .data _ _, _ => .ready
  | .reserved _, _ => .error

/-- The state after a pass, for every pass. -/
def Verdict.after (v : Verdict) (s : State) : State :=
  { s with
    linkState := v.leaves s.linkState
    incoming := s.incoming.drop v.removed
    walk := none
    outputs := s.outputs ++ v.outputs }

/-- With the upper layer and the event manager attached every pass has a next state, and it is this one. -/
theorem applyVerdict_attached (v : Verdict) {s : State} (hu : s.wiring.upper = true) (he : s.wiring.events = true) :
    applyVerdict v s = .next (v.after s) := by
  cases v <;>
    simp [applyVerdict, emit, deliver, hu, he, Verdict.after, Verdict.leaves, Verdict.removed, Verdict.outputs,
      State.output, State.dropIncoming, State.endWalk, State.enterError, State.enterReady]

/-- If a pass has a next state, it is this one, whatever is attached. -/
theorem applyVerdict_next {v : Verdict} {s t : State} (h : applyVerdict v s = .next t) : t = v.after s := by
  cases v with
  | skip => simpa [applyVerdict, Verdict.after, Verdict.leaves, Verdict.removed, Verdict.outputs, State.output,
      State.dropIncoming, State.endWalk] using h.symm
  | dropFrame n => simpa [applyVerdict, Verdict.after, Verdict.leaves, Verdict.removed, Verdict.outputs,
      State.output, State.dropIncoming, State.endWalk] using h.symm
  | reserved n => simpa [applyVerdict, Verdict.after, Verdict.leaves, Verdict.removed, Verdict.outputs,
      State.output, State.dropIncoming, State.endWalk, State.enterError] using h.symm
  | crcMismatch n =>
    obtain ⟨u, hu, ht⟩ := andThen_eq_next.1 h
    obtain ⟨-, rfl⟩ := emit_eq_next.1 hu
    cases ht
    simp [Verdict.after, Verdict.leaves, Verdict.removed, Verdict.outputs, State.output, State.dropIncoming,
      State.endWalk, State.enterError]
  | data n payload =>
    obtain ⟨u, hu, h'⟩ := andThen_eq_next.1 h
    obtain ⟨-, rfl⟩ := deliver_eq_next.1 hu
    obtain ⟨w, hw, ht⟩ := andThen_eq_next.1 h'
    obtain ⟨-, rfl⟩ := emit_eq_next.1 hw
    cases ht
    simp [Verdict.after, Verdict.leaves, Verdict.removed, Verdict.outputs, State.output, State.dropIncoming,
      State.endWalk, State.enterReady]

/-- The engine awaits more bytes exactly when the queue holds no delimiter (R151). -/
theorem headVerdict_eq_none_iff (q : List Byte) : headVerdict q = none ↔ firstZero q = none := by
  rw [← cobsDecode_incomplete_iff q Config.linkMaxFrameSize]
  unfold headVerdict
  split <;> simp_all

/-- A verdict on a decoded frame removes one byte or all it consumed (R152 to R157). -/
theorem parseFrame_removed (decoded : List Byte) (n : Nat) :
    (parseFrame decoded n).removed = 1 ∨ (parseFrame decoded n).removed = n := by
  unfold parseFrame checkFrame
  simp only
  split
  · rename_i v h
    split at h
    · cases h; exact .inl rfl
    split at h
    · cases h; exact .inr rfl
    split at h
    · cases h; exact .inr rfl
    · cases h
  · rename_i f h
    split at h
    · cases h
    split at h
    · cases h
    split at h
    · cases h
    · cases h
      unfold typeVerdict
      split <;> exact .inr rfl

/-- Every pass removes at least one byte and none after the first delimiter (R159). -/
theorem headVerdict_removed {q : List Byte} {v : Verdict} (h : headVerdict q = some v) :
    ∃ d, firstZero q = some d ∧ 1 ≤ v.removed ∧ v.removed ≤ d + 1 := by
  unfold headVerdict at h
  split at h
  · cases h
  · rename_i e hne he
    cases h
    cases hz : firstZero q with
    | none => exact absurd ((cobsDecode_incomplete_iff q _).2 hz ▸ he) (by simpa using fun h => hne h.symm)
    | some d => exact ⟨d, rfl, by simp [Verdict.removed], by simp [Verdict.removed]⟩
  · rename_i decoded n hd
    cases h
    obtain ⟨d, hz, rfl⟩ := cobsDecode_consumed hd
    refine ⟨d, hz, ?_⟩
    rcases parseFrame_removed decoded (d + 1) with h | h <;> omega

/-- The loop's bound on passes does not show: once there are more passes than bytes, one more changes nothing (R159). -/
theorem pinLoop_fuel (fuel : Nat) {s : State} (h : s.incoming.length < fuel) :
    pinLoop (fuel + 1) s = pinLoop fuel s := by
  induction fuel generalizing s with
  | zero => omega
  | succ fuel ih =>
    unfold pinLoop
    cases hv : headVerdict s.incoming with
    | none => rfl
    | some v =>
      simp only
      cases ha : applyVerdict v s with
      | fault r => rfl
      | refused r => rfl
      | next t =>
        obtain rfl := applyVerdict_next ha
        obtain ⟨d, hd, h1, h2⟩ := headVerdict_removed hv
        have hlt := firstZero_lt_length hd
        refine ih ?_
        simp only [Verdict.after, List.length_drop]
        omega

/-- The loop of LINK.PIN with as many passes as the queue can need. -/
def pinAll (s : State) : Outcome := pinLoop (s.incoming.length + 1) s

theorem pinLoop_eq_pinAll {fuel : Nat} {s : State} (h : s.incoming.length < fuel) : pinLoop fuel s = pinAll s := by
  obtain ⟨k, rfl⟩ : ∃ k, fuel = s.incoming.length + 1 + k := ⟨fuel - (s.incoming.length + 1), by omega⟩
  clear h
  induction k with
  | zero => rfl
  | succ k ih => exact (pinLoop_fuel (s.incoming.length + 1 + k) (by omega)).trans ih

/-- No delimiter: the loop returns (R151). -/
theorem pinAll_await {s : State} (h : firstZero s.incoming = none) : pinAll s = .next s := by
  simp [pinAll, pinLoop, (headVerdict_eq_none_iff _).2 h]

/-- One pass, then the loop again (R150). -/
theorem pinAll_pass {s : State} {v : Verdict} (h : headVerdict s.incoming = some v) :
    pinAll s = andThen (applyVerdict v s) pinAll := by
  have hstep : pinAll s = andThen (applyVerdict v s) (fun u => pinLoop s.incoming.length u) := by
    simp only [pinAll, pinLoop, h]
  rw [hstep]
  cases ha : applyVerdict v s with
  | fault r => rfl
  | refused r => rfl
  | next t =>
    obtain rfl := applyVerdict_next ha
    obtain ⟨d, hd, h1, h2⟩ := headVerdict_removed h
    have hlt := firstZero_lt_length hd
    refine pinLoop_eq_pinAll ?_
    simp only [Verdict.after, List.length_drop]
    omega

/-- LINK.PIN is its loop between the operation boundary and the result 0. -/
theorem execLinkPin_eq {s : State} (h : s.AtBoundary) :
    execLinkPin s = andThen (pinAll s.endWalk) (returns (.int 0)) := by
  simp [execLinkPin, h, pinAll]

/-! ### The five verdicts on a decoded body (R152 to R157) -/

theorem parseFrame_short {decoded : List Byte} (n : Nat) (h : decoded.length < 4) : parseFrame decoded n = .skip := by
  simp only [parseFrame, checkFrame, if_pos h]

theorem parseFrame_wrongLength {decoded : List Byte} (n : Nat) (h4 : ¬decoded.length < 4) (h : ¬RightLength decoded) :
    parseFrame decoded n = .dropFrame n := by
  have h' : (decoded.getD 1 0).toNat > 250 ∨ decoded.length ≠ (decoded.getD 1 0).toNat + 4 := by
    simp only [RightLength] at h
    omega
  simp only [parseFrame, checkFrame, if_neg h4, if_pos h']

/-- A frame of right LENGTH passes steps 3 and 4. -/
theorem checkFrame_rightLength {decoded : List Byte} (n : Nat) (h : RightLength decoded) :
    checkFrame decoded n =
      if ¬RightCrc decoded then .error (.crcMismatch n)
      else .ok ⟨decoded, n, decoded.getD 1 0, crc16 (decoded.take (decoded.length - 2)),
        assemble (decoded.getD (decoded.length - 2) 0) (decoded.getD (decoded.length - 1) 0)⟩ := by
  obtain ⟨h4, ha, hb⟩ := h
  have h' : ¬((decoded.getD 1 0).toNat > 250 ∨ decoded.length ≠ (decoded.getD 1 0).toNat + 4) := by omega
  simp only [checkFrame, if_neg (Nat.not_lt.2 h4), if_neg h']

theorem parseFrame_wrongCrc {decoded : List Byte} (n : Nat) (h : RightLength decoded) (hc : ¬RightCrc decoded) :
    parseFrame decoded n = .crcMismatch n := by
  simp only [parseFrame, checkFrame_rightLength n h, if_pos hc]

theorem parseFrame_deliverable {decoded : List Byte} (n : Nat) (h : RightLength decoded) (hd : Deliverable decoded) :
    parseFrame decoded n = .data n (payloadOf decoded) := by
  simp only [parseFrame, checkFrame_rightLength n h, if_neg (not_not_intro hd.1)]
  exact if_pos hd.2

theorem parseFrame_reserved {decoded : List Byte} (n : Nat) (h : RightLength decoded) (hc : RightCrc decoded)
    (ht : decoded.getD 0 0 ≠ 0x01) : parseFrame decoded n = .reserved n := by
  simp only [parseFrame, checkFrame_rightLength n h, if_neg (not_not_intro hc)]
  exact if_neg ht

/-! ### The frames LINK.PIN examines -/

theorem frameOutputs_wrongCrc {d : List Byte} (h : ¬RightCrc d) : frameOutputs d = [.event .crcError] := if_pos h

theorem frameOutputs_deliverable {d : List Byte} (h : Deliverable d) :
    frameOutputs d = [.delivery (payloadOf d), .event .frameReceived] :=
  (if_neg (not_not_intro h.1)).trans (if_pos h)

theorem frameOutputs_reserved {d : List Byte} (h : RightCrc d) (ht : d.getD 0 0 ≠ 0x01) : frameOutputs d = [] :=
  (if_neg (not_not_intro h)).trans (if_neg fun hd => ht hd.2)

/-- One pass of the list of examined frames, whatever the bound on passes (R152 to R154). -/
theorem examinedFrames_succ (fuel : Nat) (q : List Byte) :
    examinedFrames (fuel + 1) q =
      match cobsDecode q 254 with
      | .error .incomplete => []
      | .error _ => examinedFrames fuel (q.drop 1)
      | .ok (decoded, consumed) =>
        if decoded.length < 4 then examinedFrames fuel (q.drop 1)
        else if RightLength decoded then decoded :: examinedFrames fuel (q.drop consumed)
        else examinedFrames fuel (q.drop consumed) := rfl

/-- The bound does not show: as many passes as bytes are enough (R159). -/
theorem examinedFrames_fuel (fuel : Nat) {q : List Byte} (h : q.length ≤ fuel) :
    examinedFrames (fuel + 1) q = examinedFrames fuel q := by
  induction fuel generalizing q with
  | zero =>
    obtain rfl : q = [] := List.length_eq_zero_iff.1 (by omega)
    rfl
  | succ fuel ih =>
    have h1 : examinedFrames (fuel + 1) (q.drop 1) = examinedFrames fuel (q.drop 1) :=
      ih (by simp only [List.length_drop]; omega)
    rw [examinedFrames_succ (fuel + 1), h1, examinedFrames_succ fuel]
    split
    · rfl
    · rfl
    · rename_i decoded n hd
      obtain ⟨d, hz, rfl⟩ := cobsDecode_consumed hd
      rw [ih (by simp only [List.length_drop]; omega)]

theorem examinedFrames_eq_framesIn {fuel : Nat} {q : List Byte} (h : q.length ≤ fuel) :
    examinedFrames fuel q = framesIn q := by
  obtain ⟨k, rfl⟩ : ∃ k, fuel = q.length + k := ⟨fuel - q.length, by omega⟩
  clear h
  induction k with
  | zero => rfl
  | succ k ih => exact (examinedFrames_fuel (q.length + k) (by omega)).trans ih

/-- No delimiter: no frame (R151). -/
theorem framesIn_await {q : List Byte} (h : firstZero q = none) : framesIn q = [] := by
  rw [← examinedFrames_eq_framesIn (Nat.le_succ q.length), examinedFrames_succ, (cobsDecode_incomplete_iff q 254).2 h]

/-- One pass of LINK.PIN and the examined frames: what a pass outputs and leaves is what its frame does, if it examines
one (R152 to R157). -/
theorem framesIn_pass {q : List Byte} {v : Verdict} (h : headVerdict q = some v) :
    ∃ ds, framesIn q = ds ++ framesIn (q.drop v.removed) ∧ ds.flatMap frameOutputs = v.outputs ∧
      ∀ l, ds.foldl frameState l = v.leaves l := by
  obtain ⟨d, hz, h1, -⟩ := headVerdict_removed h
  have hlt := firstZero_lt_length hz
  obtain ⟨m, hm⟩ : ∃ m, q.length = m + 1 := ⟨q.length - 1, by omega⟩
  have hrest : ∀ k, 1 ≤ k → examinedFrames m (q.drop k) = framesIn (q.drop k) := fun k hk =>
    examinedFrames_eq_framesIn (by simp only [List.length_drop]; omega)
  unfold headVerdict at h
  rw [framesIn, hm, examinedFrames_succ]
  split at h
  · cases h
  · rename_i e hne he
    cases h
    rw [he]
    refine ⟨[], ?_, rfl, fun _ => rfl⟩
    cases e with
    | incomplete => exact absurd rfl hne
    | invalidInput => exact hrest 1 (Nat.le_refl 1)
    | outputTooSmall => exact hrest 1 (Nat.le_refl 1)
    | invalidParam => exact hrest 1 (Nat.le_refl 1)
    | bufferFull => exact hrest 1 (Nat.le_refl 1)
    | general => exact hrest 1 (Nat.le_refl 1)
  · rename_i decoded n hd
    cases h
    rw [hd]
    obtain ⟨d', -, rfl⟩ := cobsDecode_consumed hd
    have hr := hrest (d' + 1) (by omega)
    simp only
    by_cases h4 : decoded.length < 4
    · rw [if_pos h4, parseFrame_short _ h4]
      exact ⟨[], hrest 1 (Nat.le_refl 1), rfl, fun _ => rfl⟩
    rw [if_neg h4, hr]
    by_cases hl : RightLength decoded
    · rw [if_pos hl]
      refine ⟨[decoded], ?_⟩
      by_cases hc : RightCrc decoded
      · by_cases ht : decoded.getD 0 0 = 0x01
        · rw [parseFrame_deliverable _ hl ⟨hc, ht⟩]
          refine ⟨rfl, ?_, fun _ => if_pos ⟨hc, ht⟩⟩
          rw [List.flatMap_singleton, frameOutputs_deliverable ⟨hc, ht⟩]
          rfl
        · rw [parseFrame_reserved _ hl hc ht]
          refine ⟨rfl, ?_, fun _ => if_neg fun h => ht h.2⟩
          rw [List.flatMap_singleton, frameOutputs_reserved hc ht]
          rfl
      · rw [parseFrame_wrongCrc _ hl hc]
        refine ⟨rfl, ?_, fun _ => if_neg fun h => hc h.1⟩
        rw [List.flatMap_singleton, frameOutputs_wrongCrc hc]
        rfl
    · rw [if_neg hl, parseFrame_wrongLength _ h4 hl]
      exact ⟨[], rfl, rfl, fun _ => rfl⟩

end Sys2Proof.Machine
end

