-- ==== Sys2Proof/Laws/PerInstr.lean ====
section
/-! SUPPORT. The family RoundTrip, one lemma per constructor of Instr: the word the encoder writes for a well-formed
instruction decodes to that instruction (R61, R62, R64, R70, R71). -/

namespace Sys2Proof.Laws.RoundTrip

/-- Decoding the encoded instruction gives it back, with every operand. -/
def Statement (i : Instr) : Prop := i.wellFormed = true → decode (encode i) = .ok i

theorem crcCalc (s : List Byte) : Statement (.crcCalc s) := fun _ => rfl
theorem cobsEnc (inp : Option (List Byte)) (outCap : Nat) : Statement (.cobsEnc inp outCap) := fun _ => rfl
theorem cobsDec (inp : Option (List Byte)) (outCap : Nat) : Statement (.cobsDec inp outCap) := fun _ => rfl

/-- A byte-sequence operand and its length are read back (R15). -/
theorem decodeSeqArg_operands (op : BitVec 4) (p : SeqArg) : decodeSeqArg op p.operands = .ok p := by
  cases p <;> simp [SeqArg.operands, decodeSeqArg]

theorem linkSend (payload : SeqArg) : Statement (.linkSend payload) := fun _ => by
  change (decodeSeqArg 0x3 payload.operands).map Instr.linkSend = _
  rw [decodeSeqArg_operands]; rfl

theorem linkRx (bytes : SeqArg) : Statement (.linkRx bytes) := fun _ => by
  change (decodeSeqArg 0x4 bytes.operands).map Instr.linkRx = _
  rw [decodeSeqArg_operands]; rfl

theorem linkPout (r : Int) : Statement (.linkPout r) := fun _ => rfl
theorem linkPin : Statement .linkPin := fun _ => rfl
theorem linkReset : Statement .linkReset := fun _ => rfl
theorem linkMaxpl : Statement .linkMaxpl := fun _ => rfl
theorem unassigned9 : Statement .unassigned9 := fun _ => rfl

theorem unassignedAB (x : BitVec 1) : Statement (.unassignedAB x) := fun _ => by
  obtain rfl | rfl : x = 0 ∨ x = 1 := by revert x; decide
  · rfl
  · rfl

theorem unassignedCF (x : BitVec 2) : Statement (.unassignedCF x) := fun _ => by
  obtain rfl | rfl | rfl | rfl : x = 0 ∨ x = 1 ∨ x = 2 ∨ x = 3 := by revert x; decide
  · rfl
  · rfl
  · rfl
  · rfl

theorem frameTypeData : Statement .frameTypeData := fun _ => rfl

theorem frameTypeReserved (t : Byte) : Statement (.frameTypeReserved t) := fun h => by
  have ht : t ≠ 1#8 := by simpa [Instr.wellFormed] using h
  simp [encode, decode, ht]

theorem wireDelimiter : Statement .wireDelimiter := fun _ => rfl

theorem cobsCodeRun (c : Byte) : Statement (.cobsCodeRun c) := fun h => by
  have hc : c ≠ 0#8 ∧ c ≠ 0xFF#8 := by simpa [Instr.wellFormed] using h
  simp [encode, decode, decodeCode, hc.1, hc.2]

theorem cobsCodeFull : Statement .cobsCodeFull := fun _ => rfl

theorem cobsData (d : Byte) : Statement (.cobsData d) := fun h => by
  have hd : d ≠ 0#8 := by simpa [Instr.wellFormed] using h
  simp [encode, decode, hd]

end Sys2Proof.Laws.RoundTrip
end

