-- ==== Sys2Proof/Certificates/Slice0/Obligations.lean ====
section
/-! DEFINITION. The statements for the provers, in the order of the spec's files. "answered r" is the state with the
result r appended and no working register alive, everything else as it was. Where a docstring says "model" it names
the log entry of notes/assumptions the clause rests on. -/

open Sys2Proof Sys2Proof.Machine

/-! ### Reset, sequencing and encodings -/

/-- R34, R221: READY, both queues empty, nothing output; no working register is alive (R36). The lengths are the spec's
decision D26; that results and downward calls are empty too is the model's (log 13). The parameters are whatever the
instance has (R11; log 10), every neighbour is attached (R223, the spec's decision D37; log 9), and no word waits
(model, log 2). -/
def Obligations.ResetIsReadyAndEmpty : Prop :=
  ∀ p : Params,
    (State.resetWith p).linkState = .ready ∧ (State.resetWith p).outgoing = [] ∧ (State.resetWith p).incoming = [] ∧
    (State.resetWith p).outputs = [] ∧ (State.resetWith p).walk = none ∧
    (State.resetWith p).params = p ∧ (State.resetWith p).Wired ∧ step (State.resetWith p) = .next (State.resetWith p)

/-- The invariants below hold at reset: R37 (a) and (b), the wire frames of R22 and R37 (c), the walk's agreement (model,
log 3), and R11's constraints on the default parameters (R11; that State.reset has the defaults is log 10). -/
def Obligations.ResetMeetsTheInvariants : Prop :=
  State.reset.QueuesFit ∧ State.reset.AtBoundary ∧ OutgoingIsWireFrames State.reset.outgoing ∧ State.reset.WalkAgrees ∧
  State.reset.params.Legal

/-- R31 as the model has it (log 2): the word at the head of `pending` is taken and its instruction is run. -/
def Obligations.StepRunsTheDecodedWord : Prop :=
  ∀ (s : State) (w : TableWord) (rest : List TableWord) (i : Instr),
    s.pending = w :: rest → decode w = .ok i → i.wellFormed = true → step s = exec i { s with pending := rest }

/-- With no word waiting the block does nothing on its own (R199, R225); a word that is no instruction is refused by
name (model, log 1, log 2). -/
def Obligations.StepWaitsAndRefusesByName : Prop :=
  (∀ s : State, s.pending = [] → step s = .next s) ∧
  ∀ (s : State) (w : TableWord) (rest : List TableWord) (e : DecodeError),
    s.pending = w :: rest → decode w = .error e → step s = .refused (.undecodable e)

/-- R61, R62, R64, R70, R71: words written out from the spec's tables decode to the instructions they stand for. That a
word carries its format is the model's (log 1), and so is LINK.POUT's operand, the Physical Layer's answer (log 5). -/
def Obligations.TableWordsDecodeAsTheSpecSays : Prop :=
  decode (.cmd 0b0000 [.seq [0x31]]) = .ok (.crcCalc [0x31]) ∧
  decode (.cmd 0b0001 [.maybeSeq none, .nat 5]) = .ok (.cobsEnc none 5) ∧
  decode (.cmd 0b0010 [.maybeSeq (some [0x00]), .nat 254]) = .ok (.cobsDec (some [0x00]) 254) ∧
  decode (.cmd 0b0011 [.maybeSeq (some [0xDE, 0xAD]), .nat 2]) = .ok (.linkSend (.bytes [0xDE, 0xAD])) ∧
  decode (.cmd 0b0100 [.maybeSeq none, .nat 3]) = .ok (.linkRx (.null 3)) ∧
  decode (.cmd 0b0101 [.answer (-7)]) = .ok (.linkPout (-7)) ∧
  decode (.cmd 0b0110 []) = .ok .linkPin ∧ decode (.cmd 0b0111 []) = .ok .linkReset ∧
  decode (.cmd 0b1000 []) = .ok .linkMaxpl ∧ decode (.cmd 0b1011 []) = .ok (.unassignedAB 1) ∧
  decode (.frameType 0b00000001) = .ok .frameTypeData ∧ decode (.frameType 0x00) = .ok (.frameTypeReserved 0x00) ∧
  decode (.wire 0b00000000) = .ok .wireDelimiter ∧ decode (.wireCode 0xFE) = .ok (.cobsCodeRun 0xFE) ∧
  decode (.wireCode 0b11111111) = .ok .cobsCodeFull ∧ decode (.wireData 0xFF) = .ok (.cobsData 0xFF)

/-- No instruction outside the ranges of the opcode table is ever decoded. -/
def Obligations.DecodedInstructionsAreWellFormed : Prop :=
  ∀ (w : TableWord) (i : Instr), decode w = .ok i → i.wellFormed = true

/-- For every instruction: the word the encoder writes decodes to it, with every operand. -/
def Obligations.DecodeInvertsEncode : Prop :=
  ∀ i : Instr, Laws.RoundTrip.Statement i

/-- R63: an unassigned operation code selects no operation: refused, whatever operands follow it. -/
def Obligations.UnassignedCodesAreRefused : Prop :=
  (∀ s : State, exec .unassigned9 s = .refused (.unassignedOpcode 0x9)) ∧
  (∀ s : State, exec (.unassignedAB 0) s = .refused (.unassignedOpcode 0xA)) ∧
  (∀ s : State, exec (.unassignedAB 1) s = .refused (.unassignedOpcode 0xB)) ∧
  (∀ (x : BitVec 2) (s : State), exec (.unassignedCF x) s = .refused (.unassignedOpcode (0b11#2 ++ x))) ∧
  ∀ (op : BitVec 4) (operands : List Operand) (s : State) (rest : List TableWord),
    9 ≤ op.toNat → s.pending = .cmd op operands :: rest → step s = .refused (.unassignedOpcode op)

/-! ### CRC-16/CCITT -/

/-- R94: CRC.CALC answers the fold of the table update over the bytes from 0xFFFF, in every state an operation may start
in, and changes nothing else. -/
def Obligations.CrcCalcAnswersTheChecksum : Prop :=
  ∀ (x : List Byte) (s : State), s.AtBoundary →
    exec (.crcCalc x) s = .next (s.answered (.crc (x.foldl crcUpdate 0xFFFF)))

/-- R91, R92: the table form and the bitwise form agree on every byte sequence (general knowledge by the spec's own
mark, log 20). -/
def Obligations.CrcTableFormEqualsBitwiseForm : Prop :=
  ∀ x : List Byte, crc16 x = crc16Bitwise x

/-- R96: appending the CRC high byte first leaves the residue 0. -/
def Obligations.CrcResidueIsZero : Prop :=
  ∀ x : List Byte, crc16 (x ++ [hiByte (crc16 x), loByte (crc16 x)]) = 0

/-! ### COBS -/

/-- R101, R102, R103: the checks of COBS.ENC in their order (D5), the empty input (D4), and the encoded body; nothing
else changes. The empty input with no room is refused, as R101 and U3 say (log 8). -/
def Obligations.CobsEncAnswersByItsChecks : Prop :=
  ∀ s : State, s.AtBoundary →
    (∀ cap, exec (.cobsEnc none cap) s = .next (s.answered (.err .invalidInput))) ∧
    (∀ x cap, 254 < x.length → exec (.cobsEnc (some x) cap) s = .next (s.answered (.err .invalidInput))) ∧
    (∀ x cap, x.length ≤ 254 → ¬(x = [] ∧ cap = 0) → cap < x.length + x.length / 254 + 1 →
      exec (.cobsEnc (some x) cap) s = .next (s.answered (.err .outputTooSmall))) ∧
    (∀ cap, 1 ≤ cap → exec (.cobsEnc (some []) cap) s = .next (s.answered (.encoded []))) ∧
    (∀ x cap, x ≠ [] → x.length ≤ 254 → x.length + x.length / 254 + 1 ≤ cap →
      exec (.cobsEnc (some x) cap) s = .next (s.answered (.encoded (cobsEncodeBody x)))) ∧
    exec (.cobsEnc (some []) 0) s = .refused .encEmptyNoRoom

/-- R106: the encoded bytes contain no 0x00. -/
def Obligations.EncodedBytesContainNoZero : Prop :=
  ∀ (x : List Byte) (cap : Nat) (e : List Byte), cobsEncode x cap = .ok e → ZeroFree e

/-- R104: N + 1 bytes, but for 254 bytes none of which is 0x00, which give 256. -/
def Obligations.EncodedLengthIsOneMore : Prop :=
  ∀ x : List Byte, 1 ≤ x.length → x.length ≤ 254 →
    ((x.length = 254 ∧ ZeroFree x) → (cobsEncodeBody x).length = 256) ∧
    (¬(x.length = 254 ∧ ZeroFree x) → (cobsEncodeBody x).length = x.length + 1)

/-- R118: encoding, appending the delimiter and anything after it, and decoding gives the sequence back, with
`consumed` the body and its delimiter. Both operations complete. -/
def Obligations.CodecRoundTrip : Prop :=
  ∀ (s : State) (x t : List Byte) (cap cap2 : Nat), s.AtBoundary → x.length ≤ 254 →
    x.length + x.length / 254 + 1 ≤ cap → x.length ≤ cap2 →
    ∃ e : List Byte,
      exec (.cobsEnc (some x) cap) s = .next (s.answered (.encoded e)) ∧
      exec (.cobsDec (some (e ++ [0] ++ t)) cap2) s = .next (s.answered (.decoded x (e.length + 1)))

/-- R111, R112, R201: NULL first (D6), then no delimiter, then what the walk of the body gives; nothing else changes. -/
def Obligations.CobsDecAnswersInOrder : Prop :=
  ∀ s : State, s.AtBoundary →
    (∀ cap, exec (.cobsDec none cap) s = .next (s.answered (.err .invalidInput))) ∧
    (∀ x cap, ZeroFree x → exec (.cobsDec (some x) cap) s = .next (s.answered (.err .incomplete))) ∧
    (∀ t cap, exec (.cobsDec (some (0 :: t)) cap) s = .next (s.answered (.decoded [] 1))) ∧
    ∀ x cap, ¬ZeroFree x →
      (∃ out n, cobsDecode x cap = .ok (out, n) ∧ exec (.cobsDec (some x) cap) s = .next (s.answered (.decoded out n))) ∨
      (∃ e, cobsDecode x cap = .error e ∧ (e = .invalidInput ∨ e = .outputTooSmall) ∧
        exec (.cobsDec (some x) cap) s = .next (s.answered (.err e)))

/-- R111: bytes after the first delimiter are never read. -/
def Obligations.DecoderIgnoresWhatFollowsTheDelimiter : Prop :=
  ∀ (b t : List Byte) (cap : Nat), ZeroFree b → cobsDecode (b ++ 0 :: t) cap = cobsDecode (b ++ [0]) cap

/-- R113, run by run, with R114's order (D7): a body is a code byte, `c − 1` data bytes and the rest of the body. -/
def Obligations.DecoderWalksRunByRun : Prop :=
  ∀ (c : Byte) (cap : Nat) (t : List Byte), c ≠ 0 →
    (∀ b : List Byte, ZeroFree b → b.length + 1 < c.toNat → cobsDecode (c :: b ++ 0 :: t) cap = .error .invalidInput) ∧
    (∀ data rest : List Byte, ZeroFree data → ZeroFree rest → data.length + 1 = c.toNat →
      (cap < data.length → cobsDecode (c :: data ++ rest ++ 0 :: t) cap = .error .outputTooSmall) ∧
      (data.length ≤ cap → rest = [] → cobsDecode (c :: data ++ rest ++ 0 :: t) cap = .ok (data, c.toNat + 1)) ∧
      (data.length ≤ cap → rest ≠ [] → c = 0xFF →
        cobsDecode (c :: data ++ rest ++ 0 :: t) cap =
          (cobsDecode (rest ++ 0 :: t) (cap - data.length)).map (fun o => (data ++ o.1, c.toNat + o.2))) ∧
      (data.length = cap → rest ≠ [] → c ≠ 0xFF →
        cobsDecode (c :: data ++ rest ++ 0 :: t) cap = .error .outputTooSmall) ∧
      (data.length < cap → rest ≠ [] → c ≠ 0xFF →
        cobsDecode (c :: data ++ rest ++ 0 :: t) cap =
          (cobsDecode (rest ++ 0 :: t) (cap - data.length - 1)).map (fun o => (data ++ 0 :: o.1, c.toNat + o.2))))

/-- R110, R113, R115: a decoded sequence fits the capacity, and `consumed` is the delimiter's position plus one. -/
def Obligations.DecodedBytesFitTheCapacity : Prop :=
  ∀ (x : List Byte) (cap : Nat) (out : List Byte) (n : Nat), cobsDecode x cap = .ok (out, n) →
    out.length ≤ cap ∧ ∃ b t, x = b ++ 0 :: t ∧ ZeroFree b ∧ n = b.length + 1 ∧ out.length ≤ b.length

/-! ### LINK.SEND and LINK.POUT -/

/-- R121: NULL, or more than 250 bytes: InvalidParam, and nothing else changes, ERROR included (D9). -/
def Obligations.SendRefusesBadOperands : Prop :=
  ∀ s : State, s.AtBoundary →
    (∀ n, exec (.linkSend (.null n)) s = .next (s.answered (.err .invalidParam))) ∧
    ∀ p : List Byte, 250 < p.length → exec (.linkSend (.bytes p)) s = .next (s.answered (.err .invalidParam))

/-- R64, R123: `[0x01, len, payload…, crcLo, crcHi]`, L + 4 bytes, which fits the 254-byte frame scratch. -/
def Obligations.FrameIsTypeLengthPayloadCrc : Prop :=
  ∀ p : List Byte, p.length ≤ 250 →
    linkFrame p = 0x01 :: BitVec.ofNat 8 p.length :: p ++
      [(crc16 (0x01 :: BitVec.ofNat 8 p.length :: p)).extractLsb' 0 8,
       (crc16 (0x01 :: BitVec.ofNat 8 p.length :: p)).extractLsb' 8 8] ∧
    (linkFrame p).length = p.length + 4 ∧ (linkFrame p).length ≤ 254

/-- R73: what LINK.SEND appends is a body without a zero and one delimiter, 6 to 257 bytes. -/
def Obligations.WireFrameIsBodyAndOneDelimiter : Prop :=
  ∀ p : List Byte, p.length ≤ 250 →
    (∃ body, wire p = body ++ [0] ∧ ZeroFree body) ∧ 6 ≤ (wire p).length ∧ (wire p).length ≤ 257

/-- R127: a payload that fits is queued as one whole wire frame, the event is emitted, READY results from READY and from
ERROR (R122), 0 is returned, and nothing else changes. -/
def Obligations.SendQueuesOneWireFrame : Prop :=
  ∀ (p : List Byte) (s : State), s.AtBoundary → s.wiring.events = true → p.length ≤ 250 →
    encBound (p.length + 4) ≤ s.params.encCap → s.outgoing.length + (wire p).length ≤ 514 →
    exec (.linkSend (.bytes p)) s =
      .next { s with
        linkState := .ready
        outgoing := s.outgoing ++ wire p
        walk := none
        outputs := s.outputs ++ [.event .outgoingDataAvailable, .result (.int 0)] }

/-- R122, R124, R126: when the encoder's output capacity is too small, General; when the queue has no room, BufferFull;
both leave the queues alone, emit nothing, and leave READY (D10, D12, D13). -/
def Obligations.SendFailuresLeaveTheQueues : Prop :=
  ∀ (p : List Byte) (s : State), s.AtBoundary → p.length ≤ 250 →
    (s.params.encCap < encBound (p.length + 4) →
      exec (.linkSend (.bytes p)) s =
        .next { s with linkState := .ready, walk := none, outputs := s.outputs ++ [.result (.err .general)] }) ∧
    (encBound (p.length + 4) ≤ s.params.encCap → 514 < s.outgoing.length + (wire p).length →
      exec (.linkSend (.bytes p)) s =
        .next { s with linkState := .ready, walk := none, outputs := s.outputs ++ [.result (.err .bufferFull)] })

/-- R130: an empty queue or ERROR: no call, no change, 0 (the 0 is D14). -/
def Obligations.PoutIsHeldOff : Prop :=
  ∀ (r : Int) (s : State), s.AtBoundary → (s.outgoing = [] ∨ s.linkState = .error) →
    exec (.linkPout r) s = .next (s.answered (.int 0))

/-- R131, R132, R133: the first `min(outgoing_len, PHY_MAX_PAYLOAD)` bytes are submitted, the answer is returned
verbatim, `r` bytes leave the head if `r > 0`, READY stays, and nothing else changes (D15, D16). -/
def Obligations.PoutSubmitsTheHead : Prop :=
  ∀ (r : Int) (s : State), s.linkState = .ready → s.outgoing ≠ [] → s.wiring.physical = true →
    r ≤ min s.outgoing.length s.params.phyMax →
    exec (.linkPout r) s =
      .next { s with
        outgoing := s.outgoing.drop r.toNat
        walk := none
        outputs := s.outputs ++
          [.phyCall ⟨s.outgoing.take (min s.outgoing.length s.params.phyMax), r⟩, .result (.int r)] }

/-- R137, one instruction at a time: but for LINK.RESET, the bytes accepted so far followed by the queue only grow at
the end, by one whole wire frame for each LINK.SEND that returned 0 and by nothing otherwise; so each byte is accepted
once and in order. -/
def Obligations.TransmittedBytesAreTheSentFrames : Prop :=
  ∀ (i : Instr) (s t : State), exec i s = .next t → i ≠ .linkReset →
    (∃ p, i = .linkSend (.bytes p) ∧ t.results = s.results ++ [.int 0] ∧
      t.acceptedBytes ++ t.outgoing = s.acceptedBytes ++ s.outgoing ++ wire p) ∨
    ((∀ p, i = .linkSend (.bytes p) → t.results ≠ s.results ++ [.int 0]) ∧
      t.acceptedBytes ++ t.outgoing = s.acceptedBytes ++ s.outgoing)

/-! ### LINK.RX and LINK.PIN -/

/-- R141 to R144: NULL, InvalidParam and no change (D18); overflow, the queue cleared, the new bytes dropped, BufferFull,
no event (D17); else append, one event (also for an empty deposit, D18) and 0. Nothing else changes. -/
def Obligations.RxAppendsOrClears : Prop :=
  ∀ s : State, s.AtBoundary →
    (∀ n, exec (.linkRx (.null n)) s = .next (s.answered (.err .invalidParam))) ∧
    (∀ x : List Byte, 514 < s.incoming.length + x.length →
      exec (.linkRx (.bytes x)) s =
        .next { s with incoming := [], walk := none, outputs := s.outputs ++ [.result (.err .bufferFull)] }) ∧
    ∀ x : List Byte, s.incoming.length + x.length ≤ 514 → s.wiring.events = true →
      exec (.linkRx (.bytes x)) s =
        .next { s with
          incoming := s.incoming ++ x
          walk := none
          outputs := s.outputs ++ [.event .incomingDataAvailable, .result (.int 0)] }

/-- R150 to R160: LINK.PIN always completes with 0. It consumes everything up to and including the last delimiter and
keeps what follows; what it outputs is, frame by frame in the queue's order, one CRC_ERROR for a CRC mismatch and the
payload followed by one FRAME_RECEIVED for a delivered frame, and nothing else; `link_state` is what the last examined
frame left; a delivered payload has at most 250 bytes; everything else stays (D19, D20, D21, D33). -/
def Obligations.PinConsumesEveryDelimiter : Prop :=
  ∀ s : State, s.AtBoundary → s.wiring.upper = true → s.wiring.events = true →
    ∃ gone kept : List Byte,
      s.incoming = gone ++ kept ∧ ZeroFree kept ∧ (gone = [] ∨ gone.getLast? = some 0) ∧
      exec .linkPin s = .next { s with
        linkState := (framesIn s.incoming).foldl frameState s.linkState
        incoming := kept
        walk := none
        outputs := s.outputs ++ (framesIn s.incoming).flatMap frameOutputs ++ [.result (.int 0)] } ∧
      ∀ d ∈ framesIn s.incoming, (payloadOf d).length ≤ 250

/-- R151: with no delimiter in the queue, the empty queue included, nothing changes but the result (D33). -/
def Obligations.PinAwaitsADelimiter : Prop :=
  ∀ s : State, s.AtBoundary → ZeroFree s.incoming → exec .linkPin s = .next (s.answered (.int 0))

/-- R152: a head that fails to decode, or decodes to fewer than 4 bytes: LINK.PIN is LINK.PIN on the queue without its
first byte; no event, `link_state` as it was. -/
def Obligations.PinSkipsOneByte : Prop :=
  ∀ s : State,
    (cobsDecode s.incoming 254 = .error .invalidInput ∨ cobsDecode s.incoming 254 = .error .outputTooSmall ∨
      ∃ decoded n, cobsDecode s.incoming 254 = .ok (decoded, n) ∧ decoded.length < 4) →
    exec .linkPin s = exec .linkPin { s with incoming := s.incoming.drop 1 }

/-- R153: LENGTH above 250, or a decoded length that is not LENGTH + 4: LINK.PIN is LINK.PIN on the queue without the
consumed frame; no event, `link_state` as it was, the CRC not looked at. -/
def Obligations.PinDropsAWrongLength : Prop :=
  ∀ (s : State) (decoded : List Byte) (n : Nat), cobsDecode s.incoming 254 = .ok (decoded, n) →
    4 ≤ decoded.length →
    (250 < (decoded.getD 1 0).toNat ∨ decoded.length ≠ (decoded.getD 1 0).toNat + 4) →
    exec .linkPin s = exec .linkPin { s with incoming := s.incoming.drop n }

/-- R155: right LENGTH, wrong CRC: ERROR, one CRC_ERROR, the consumed frame dropped, and LINK.PIN goes on. -/
def Obligations.PinReportsACrcMismatch : Prop :=
  ∀ (s : State) (decoded : List Byte) (n : Nat), s.AtBoundary → s.wiring.events = true →
    cobsDecode s.incoming 254 = .ok (decoded, n) → RightLength decoded → ¬RightCrc decoded →
    exec .linkPin s = exec .linkPin { s with
      linkState := .error
      incoming := s.incoming.drop n
      outputs := s.outputs ++ [.event .crcError] }

/-- R156, R158: right LENGTH, right CRC, TYPE 0x01: the payload is delivered, FRAME_RECEIVED emitted, READY entered, the
consumed frame removed, and LINK.PIN goes on (D19, D20). -/
def Obligations.PinDeliversADataFrame : Prop :=
  ∀ (s : State) (decoded : List Byte) (n : Nat), s.AtBoundary → s.wiring.upper = true → s.wiring.events = true →
    cobsDecode s.incoming 254 = .ok (decoded, n) → RightLength decoded → RightCrc decoded → decoded.getD 0 0 = 0x01 →
    exec .linkPin s = exec .linkPin { s with
      linkState := .ready
      incoming := s.incoming.drop n
      outputs := s.outputs ++ [.delivery (payloadOf decoded), .event .frameReceived] }

/-- R157: right LENGTH, right CRC, any other TYPE: ERROR, nothing delivered, no event, the consumed frame removed, and
LINK.PIN goes on (D19). -/
def Obligations.PinRejectsAReservedType : Prop :=
  ∀ (s : State) (decoded : List Byte) (n : Nat), s.AtBoundary →
    cobsDecode s.incoming 254 = .ok (decoded, n) → RightLength decoded → RightCrc decoded → decoded.getD 0 0 ≠ 0x01 →
    exec .linkPin s = exec .linkPin { s with linkState := .error, incoming := s.incoming.drop n }

/-- R118, R150, R154 together: a wire frame LINK.SEND built, at the head of the queue, is delivered as its payload,
whatever follows it. Delivery before FRAME_RECEIVED, the removal and the continuation are the spec's D19 and D20. -/
def Obligations.PinRecoversASentFrame : Prop :=
  ∀ (s : State) (p rest : List Byte), s.AtBoundary → s.wiring.upper = true → s.wiring.events = true →
    p.length ≤ 250 → s.incoming = wire p ++ rest →
    exec .linkPin s = exec .linkPin { s with
      linkState := .ready
      incoming := rest
      outputs := s.outputs ++ [.delivery p, .event .frameReceived] }

/-- 95_test_vectors.md section 2.9, T3: two blocks from reset, a payload sent on one, its bytes accepted in any sequence
of partial writes and deposited on the other in any chunks, is delivered there, once, with no CRC_ERROR. Both blocks have the default parameters
(log 10); the removal and the continuation after the delivery are the spec's D19 and D20. -/
def Obligations.LoopbackDeliversThePayload : Prop :=
  ∀ p : List Byte, p.length ≤ 250 →
    ∃ x1, exec (.linkSend (.bytes p)) State.reset = .next x1 ∧
      (∃ rs x2, transmit rs x1 = .next x2 ∧ x2.outgoing = []) ∧
      ∀ rs x2, transmit rs x1 = .next x2 → x2.outgoing = [] →
        ∀ chunks : List (List Byte), chunks.flatten = x2.acceptedBytes →
          ∃ y1 y2, deposit chunks State.reset = .next y1 ∧ exec .linkPin y1 = .next y2 ∧
            y2.delivered = [p] ∧ y2.events.count .frameReceived = 1 ∧ y2.events.count .crcError = 0 ∧
            y2.linkState = .ready ∧ y2.incoming = []

/-! ### Link control -/

/-- R171 (its body is D22): READY, both queues emptied; the outputs so far and everything else stay (model, log 13, log 14). -/
def Obligations.LinkResetEmptiesTheQueues : Prop :=
  ∀ s : State, s.AtBoundary →
    exec .linkReset s =
      .next { s with
        linkState := .ready, outgoing := [], incoming := [], walk := none
        outputs := s.outputs ++ [.result .noResult] }

/-- R173: 250, and nothing else changes (D23). -/
def Obligations.MaxplAnswers250 : Prop :=
  ∀ s : State, s.AtBoundary → exec .linkMaxpl s = .next (s.answered (.int 250))

/-! ### The whole machine -/

/-- R226, R236: in a quiescent state LINK.POUT and LINK.PIN answer 0 and nothing else changes (the 0 of LINK.POUT is
D14). -/
def Obligations.QuiescentBlockIsStill : Prop :=
  ∀ (s : State) (r : Int), s.AtBoundary → s.Quiescent →
    exec (.linkPout r) s = .next (s.answered (.int 0)) ∧ exec .linkPin s = .next (s.answered (.int 0))

/-- R22, R23, R37 (a): a step keeps both queues within 514 bytes. -/
def Obligations.StepKeepsTheQueueCapacity : Prop :=
  ∀ s t : State, s.QueuesFit → step s = .next t → t.QueuesFit

/-- R37 (b), R132: SENDING exists inside LINK.POUT only; no step ends in it. -/
def Obligations.StepNeverEndsInSending : Prop :=
  ∀ s t : State, s.AtBoundary → step s = .next t → t.AtBoundary

/-- R22, R37 (c): the outgoing queue stays a sequence of whole wire frames, the first possibly cut at its head. -/
def Obligations.StepKeepsTheOutgoingWireFrames : Prop :=
  ∀ s t : State, OutgoingIsWireFrames s.outgoing → step s = .next t → OutgoingIsWireFrames t.outgoing

/-- R28, R29, R158: the working registers of a walk keep agreeing with the queue (model, log 3), and no payload of more
than 250 bytes is ever delivered. -/
def Obligations.StepKeepsTheWalkInAgreement : Prop :=
  ∀ s t : State, s.WalkAgrees → step s = .next t → t.WalkAgrees

/-- R198: the output is append-only; that LINK.RESET keeps it, and that results and downward calls stand in it, is the
model's (log 13). R11, R223: the parameters and the wiring never change (log 9, log 10). A step takes at most the word
at the head (log 2). -/
def Obligations.OutputsOnlyGrow : Prop :=
  ∀ s t : State, step s = .next t →
    s.outputs <+: t.outputs ∧ t.params = s.params ∧ t.wiring = s.wiring ∧ t.pending = s.pending.tail

/-- R203: nothing else leaves ERROR than a LINK.SEND that passes validation, a delivered frame, or LINK.RESET. That
FRAME.TYPE.DATA delivers as an instruction of its own is the model's (log 3). -/
def Obligations.OnlyTheseLeaveError : Prop :=
  ∀ (i : Instr) (s t : State), i.wellFormed = true → exec i s = .next t → s.linkState = .error → t.linkState ≠ .error →
    (∃ p, i = .linkSend (.bytes p) ∧ p.length ≤ 250) ∨ i = .linkReset ∨
    ((i = .linkPin ∨ i = .frameTypeData) ∧ s.delivered.length < t.delivered.length ∧ t.linkState = .ready)

/-- R177, R155, R157: nothing but reception sets ERROR, and a CRC mismatch (with its event) or a reserved TYPE is the
cause: of LINK.PIN, the last frame it examined. The delimiter and the TYPE byte as instructions of their own are the
model's (log 3). -/
def Obligations.OnlyReceptionSetsError : Prop :=
  ∀ (i : Instr) (s t : State), exec i s = .next t → s.linkState ≠ .error → t.linkState = .error →
    (i = .linkPin ∧ ∃ d, (framesIn s.incoming).getLast? = some d ∧
      ((¬RightCrc d ∧ ∃ before, t.outputs = s.outputs ++ before ++ [.event .crcError, .result (.int 0)]) ∨
        (RightCrc d ∧ d.getD 0 0 ≠ 0x01))) ∨
    (i = .wireDelimiter ∧ t.outputs = s.outputs ++ [.event .crcError] ∧
      ∃ r, s.Walking r ∧ RightLength r.out ∧ ¬RightCrc r.out) ∨
    ∃ b f, i = .frameTypeReserved b ∧ b ≠ 0x01 ∧ t.outputs = s.outputs ∧ s.walk = some (.frame f) ∧
      f.decoded.head? = some b

/-- R33: who writes the queues, the delivery output and the downward calls. The wire symbols beside LINK.PIN, and
FRAME.TYPE.DATA as one that delivers, are the model's (log 3). -/
def Obligations.WritersOfTheQueues : Prop :=
  ∀ (i : Instr) (s t : State), i.wellFormed = true → exec i s = .next t →
    (t.outgoing ≠ s.outgoing → (∃ x, i = .linkSend x) ∨ (∃ r, i = .linkPout r) ∨ i = .linkReset) ∧
    (t.incoming ≠ s.incoming →
      (∃ x, i = .linkRx x) ∨ i = .linkPin ∨ i = .linkReset ∨ i = .frameTypeData ∨ (∃ b, i = .frameTypeReserved b) ∨
      i = .wireDelimiter ∨ (∃ c, i = .cobsCodeRun c) ∨ i = .cobsCodeFull ∨ ∃ d, i = .cobsData d) ∧
    (t.delivered ≠ s.delivered → i = .linkPin ∨ i = .frameTypeData) ∧
    (t.phyCalls ≠ s.phyCalls → ∃ r, i = .linkPout r)

/-- R196, R197: which events an instruction emits, and how many: of LINK.PIN, one CRC_ERROR for each examined frame with
a wrong CRC and one FRAME_RECEIVED for each one delivered, and no others. The events of WIRE.DELIMITER and
FRAME.TYPE.DATA as instructions of their own are the model's (log 3). -/
def Obligations.EventsOfEachInstruction : Prop :=
  ∀ (i : Instr) (s t : State), i.wellFormed = true → exec i s = .next t →
    ∃ es, t.events = s.events ++ es ∧
      match i with
      | .linkSend _ =>
        (t.results = s.results ++ [.int 0] → es = [.outgoingDataAvailable]) ∧
        (t.results ≠ s.results ++ [.int 0] → es = [])
      | .linkRx _ =>
        (t.results = s.results ++ [.int 0] → es = [.incomingDataAvailable]) ∧
        (t.results ≠ s.results ++ [.int 0] → es = [])
      | .linkPin =>
        es.count .crcError = (framesIn s.incoming).countP (fun d => ¬RightCrc d) ∧
        es.count .frameReceived = (framesIn s.incoming).countP (fun d => Deliverable d) ∧
        t.delivered = s.delivered ++ ((framesIn s.incoming).filter (fun d => Deliverable d)).map payloadOf ∧
        ∀ e ∈ es, e = .crcError ∨ e = .frameReceived
      | .wireDelimiter => es = [] ∨ es = [.crcError]
      | .frameTypeData => es = [.frameReceived]
      | .crcCalc _ | .cobsEnc _ _ | .cobsDec _ _ | .linkPout _ | .linkReset | .linkMaxpl | .unassigned9
      | .unassignedAB _ | .unassignedCF _ | .frameTypeReserved _ | .cobsCodeRun _ | .cobsCodeFull | .cobsData _ =>
        es = []

/-- R178, U8 (log 7): nothing starts in SENDING. -/
def Obligations.NothingStartsInSending : Prop :=
  ∀ (i : Instr) (s : State), s.linkState = .sending →
    match i with
    | .unassigned9 | .unassignedAB _ | .unassignedCF _ => ∃ op, exec i s = .refused (.unassignedOpcode op)
    | _ => exec i s = .refused .startedInSending

/-- R224, U11 (log 9): an operation or a symbol with a transaction that has no receiver is refused: LINK.SEND, LINK.RX,
LINK.POUT, LINK.PIN (in whichever of its passes, the first such one deciding), and as instructions of their own (model,
log 3) WIRE.DELIMITER and FRAME.TYPE.DATA. R131, R207: so is an answer greater than the count of bytes submitted. -/
def Obligations.BrokenContractsAreRefused : Prop :=
  (∀ (p : List Byte) (s : State), s.AtBoundary → s.wiring.events = false → p.length ≤ 250 →
    encBound (p.length + 4) ≤ s.params.encCap → s.outgoing.length + (wire p).length ≤ 514 →
    exec (.linkSend (.bytes p)) s = .refused .noEventManager) ∧
  (∀ (x : List Byte) (s : State), s.AtBoundary → s.wiring.events = false → s.incoming.length + x.length ≤ 514 →
    exec (.linkRx (.bytes x)) s = .refused .noEventManager) ∧
  (∀ (r : Int) (s : State), s.linkState = .ready → s.outgoing ≠ [] → s.wiring.physical = false →
    exec (.linkPout r) s = .refused .noPhysicalLayer) ∧
  (∀ (r : Int) (s : State), s.linkState = .ready → s.outgoing ≠ [] → s.wiring.physical = true →
    (min s.outgoing.length s.params.phyMax : Nat) < r → exec (.linkPout r) s = .refused .answerTooLarge) ∧
  (∀ s : State, s.AtBoundary → s.wiring.upper = true → s.wiring.events = false →
    (∃ d ∈ framesIn s.incoming, ¬RightCrc d ∨ Deliverable d) → exec .linkPin s = .refused .noEventManager) ∧
  (∀ s : State, s.AtBoundary → s.wiring.upper = false → s.wiring.events = true →
    (∃ d ∈ framesIn s.incoming, Deliverable d) → exec .linkPin s = .refused .noUpperLayer) ∧
  (∀ (s : State) (d : List Byte), s.AtBoundary → s.wiring.upper = false → s.wiring.events = false →
    (framesIn s.incoming).find? (fun d => ¬RightCrc d ∨ Deliverable d) = some d →
    exec .linkPin s = .refused (if RightCrc d then .noUpperLayer else .noEventManager)) ∧
  (∀ (s : State) (r : BodyRegs), s.AtBoundary → s.wiring.events = false → s.Walking r → r.left = 0 → r.p = r.d →
    readByte s.incoming r.d = some 0 → RightLength r.out → ¬RightCrc r.out →
    exec .wireDelimiter s = .refused .noEventManager) ∧
  (∀ (s : State) (f : FrameRegs), s.AtBoundary → s.wiring.upper = false → s.walk = some (.frame f) →
    f.decoded.head? = some 0x01 → exec .frameTypeData s = .refused .noUpperLayer) ∧
  ∀ (s : State) (f : FrameRegs), s.AtBoundary → s.wiring.upper = true → s.wiring.events = false →
    s.walk = some (.frame f) → f.decoded.head? = some 0x01 → exec .frameTypeData s = .refused .noEventManager

/-- R193: under any legal assignment of numerals, a Link Layer error result is told from success and from a passed
through hardware failure by its value. -/
def Obligations.ErrorOriginIsRecoverable : Prop :=
  ∀ num : ErrName → Int, Config.LegalErrorNumerals num → ∀ e : ErrName,
    e = .invalidParam ∨ e = .bufferFull ∨ e = .general →
    ∃ k, (OpResult.err e).numeral num = some k ∧ -64 ≤ k ∧ k ≤ -33 ∧
      ∀ r : Int, -32 ≤ r → (OpResult.int r).numeral num ≠ some k

/-! ### Wire symbols (model, log 3: the inner steps of the receive engine) -/

/-- R71, R113: a code byte 0x01 to 0xFE at a code position: overrun first, then capacity, then the run begins, and a run
without data ends at once with one implicit zero unless it is the last. A failure advances the queue by one byte
(R152). -/
def Obligations.CodeByteBeginsARun : Prop :=
  ∀ (s : State) (r : BodyRegs) (c : Byte), s.AtBoundary → s.Walking r → c ≠ 0 → c ≠ 0xFF →
    r.left = 0 → r.p < r.d → readByte s.incoming r.p = some c →
    (r.d < r.p + c.toNat → exec (.cobsCodeRun c) s = .next { s with incoming := s.incoming.drop 1, walk := none }) ∧
    (r.p + c.toNat ≤ r.d → 254 < r.out.length + (c.toNat - 1) →
      exec (.cobsCodeRun c) s = .next { s with incoming := s.incoming.drop 1, walk := none }) ∧
    (r.p + c.toNat ≤ r.d → r.out.length + (c.toNat - 1) ≤ 254 → 2 ≤ c.toNat →
      exec (.cobsCodeRun c) s =
        .next { s with walk := some (.body { r with p := r.p + 1, c := c, left := c.toNat - 1 }) }) ∧
    (c = 1 → r.out.length ≤ 254 → r.p + 1 = r.d →
      exec (.cobsCodeRun c) s = .next { s with walk := some (.body { r with p := r.p + 1, c := c, left := 0 }) }) ∧
    (c = 1 → r.out.length ≤ 253 → r.p + 1 ≠ r.d →
      exec (.cobsCodeRun c) s =
        .next { s with walk := some (.body { r with p := r.p + 1, c := c, left := 0, out := r.out ++ [0] }) }) ∧
    (c = 1 → r.out.length = 254 → r.p + 1 ≠ r.d →
      exec (.cobsCodeRun c) s = .next { s with incoming := s.incoming.drop 1, walk := none })

/-- R71, R113: the code byte 0xFF at a code position: the run's 254 data bytes must end at or before the delimiter, and
the decode scratch of 254 bytes must be empty. -/
def Obligations.FullCodeByteBeginsAFullRun : Prop :=
  ∀ (s : State) (r : BodyRegs), s.AtBoundary → s.Walking r → r.left = 0 → r.p < r.d →
    readByte s.incoming r.p = some 0xFF →
    ((r.d < r.p + 255 ∨ r.out ≠ []) →
      exec .cobsCodeFull s = .next { s with incoming := s.incoming.drop 1, walk := none }) ∧
    (r.p + 255 ≤ r.d → r.out = [] →
      exec .cobsCodeFull s = .next { s with walk := some (.body { r with p := r.p + 1, c := 0xFF, left := 254 }) })

/-- R71, R113: a data byte is copied verbatim; the last one of a run ends it, with one implicit zero unless the run is
full or the last; a zero that does not fit advances the queue by one byte (R152). -/
def Obligations.DataByteIsCopied : Prop :=
  ∀ (s : State) (r : BodyRegs) (b : Byte), s.AtBoundary → s.walk = some (.body r) → readByte s.incoming r.p = some b →
    (2 ≤ r.left →
      exec (.cobsData b) s =
        .next { s with walk := some (.body { r with p := r.p + 1, left := r.left - 1, out := r.out ++ [b] }) }) ∧
    (r.left = 1 → (r.c = 0xFF ∨ r.p + 1 = r.d) →
      exec (.cobsData b) s =
        .next { s with walk := some (.body { r with p := r.p + 1, left := 0, out := r.out ++ [b] }) }) ∧
    (r.left = 1 → r.c ≠ 0xFF → r.p + 1 ≠ r.d → r.out.length + 2 ≤ 254 →
      exec (.cobsData b) s =
        .next { s with walk := some (.body { r with p := r.p + 1, left := 0, out := r.out ++ [b] ++ [0] }) }) ∧
    (r.left = 1 → r.c ≠ 0xFF → r.p + 1 ≠ r.d → 254 < r.out.length + 2 →
      exec (.cobsData b) s = .next { s with incoming := s.incoming.drop 1, walk := none })

/-- R111, R113, R152 to R155: the delimiter at the end of the body: a short frame advances one byte, a wrong LENGTH drops
the frame, a wrong CRC drops it with ERROR and CRC_ERROR, and a frame that passes waits for its TYPE. -/
def Obligations.DelimiterEndsTheBody : Prop :=
  ∀ (s : State) (r : BodyRegs), s.AtBoundary → s.Walking r → r.left = 0 → r.p = r.d →
    readByte s.incoming r.d = some 0 →
    (r.out.length < 4 → exec .wireDelimiter s = .next { s with incoming := s.incoming.drop 1, walk := none }) ∧
    (4 ≤ r.out.length → ¬RightLength r.out →
      exec .wireDelimiter s = .next { s with incoming := s.incoming.drop (r.d + 1), walk := none }) ∧
    (RightLength r.out → ¬RightCrc r.out → s.wiring.events = true →
      exec .wireDelimiter s = .next { s with
        linkState := .error
        incoming := s.incoming.drop (r.d + 1)
        walk := none
        outputs := s.outputs ++ [.event .crcError] }) ∧
    (RightLength r.out → RightCrc r.out →
      exec .wireDelimiter s =
        .next { s with
          walk := some (.frame ⟨r.out, r.d + 1, r.out.getD 1 0, crc16 (r.out.take (r.out.length - 2)),
            assemble (r.out.getD (r.out.length - 2) 0) (r.out.getD (r.out.length - 1) 0)⟩) })

/-- R156: TYPE 0x01 of a frame that passed the checks: deliver, FRAME_RECEIVED, READY, the consumed frame removed. -/
def Obligations.DataTypeDeliversTheFrame : Prop :=
  ∀ (s : State) (f : FrameRegs), s.AtBoundary → s.wiring.upper = true → s.wiring.events = true →
    s.walk = some (.frame f) → f.decoded.head? = some 0x01 →
    exec .frameTypeData s = .next { s with
      linkState := .ready
      incoming := s.incoming.drop f.consumed
      walk := none
      outputs := s.outputs ++ [.delivery ((f.decoded.drop 2).take f.len.toNat), .event .frameReceived] }

/-- R157: any other TYPE of a frame that passed the checks: ERROR, nothing delivered, no event, the consumed frame
removed. -/
def Obligations.ReservedTypeEntersError : Prop :=
  ∀ (s : State) (f : FrameRegs) (b : Byte), s.AtBoundary → s.walk = some (.frame f) → f.decoded.head? = some b →
    b ≠ 0x01 →
    exec (.frameTypeReserved b) s =
      .next { s with linkState := .error, incoming := s.incoming.drop f.consumed, walk := none }

/-- R151 and log 3: with no walk in progress and no delimiter in the queue a wire symbol changes nothing; a symbol the
queue does not hold at the walk's position is refused. -/
def Obligations.SymbolElsewhereWaitsOrIsRefused : Prop :=
  ∀ (s : State) (c b : Byte), s.AtBoundary →
    (s.walk = none → ZeroFree s.incoming →
      exec (.cobsCodeRun c) s = .next s ∧ exec .cobsCodeFull s = .next s ∧ exec (.cobsData b) s = .next s ∧
      exec .wireDelimiter s = .next s) ∧
    (∀ f, s.walk = some (.frame f) →
      exec (.cobsCodeRun c) s = .refused .symbolNotHere ∧ exec .cobsCodeFull s = .refused .symbolNotHere ∧
      exec (.cobsData b) s = .refused .symbolNotHere ∧ exec .wireDelimiter s = .refused .symbolNotHere ∧
      (f.decoded.head? ≠ some b → exec (.frameTypeReserved b) s = .refused .symbolNotHere) ∧
      (f.decoded.head? ≠ some 0x01 → exec .frameTypeData s = .refused .symbolNotHere)) ∧
    ((∀ f, s.walk ≠ some (.frame f)) →
      exec .frameTypeData s = .refused .symbolNotHere ∧ exec (.frameTypeReserved b) s = .refused .symbolNotHere) ∧
    ∀ r, s.Walking r →
      ((r.left ≠ 0 ∨ r.d ≤ r.p ∨ readByte s.incoming r.p ≠ some c) →
        exec (.cobsCodeRun c) s = .refused .symbolNotHere) ∧
      ((r.left ≠ 0 ∨ r.d ≤ r.p ∨ readByte s.incoming r.p ≠ some 0xFF) →
        exec .cobsCodeFull s = .refused .symbolNotHere) ∧
      ((r.left = 0 ∨ readByte s.incoming r.p ≠ some b) → exec (.cobsData b) s = .refused .symbolNotHere) ∧
      ((r.left ≠ 0 ∨ r.p ≠ r.d ∨ readByte s.incoming r.d ≠ some 0) →
        exec .wireDelimiter s = .refused .symbolNotHere)

/-- R111, R113, R150: from a state with no walk in progress, running the symbols the engine meets until none is left ends,
and leaves exactly what LINK.PIN leaves, but for LINK.PIN's result 0. The symbols as steps are the model's (log 3). -/
def Obligations.SymbolStepsRefineLinkPin : Prop :=
  ∀ s : State, s.AtBoundary → s.wiring.upper = true → s.wiring.events = true → s.walk = none →
    ∃ (n : Nat) (t : State), runSymbols n s = .next t ∧ nextSymbol t = none ∧
      exec .linkPin s = .next (t.pushResult (.int 0))
end

