-- ==== Sys2Proof/Laws/Crc.lean ====
section
/-! SUPPORT. The CRC table against R92, in pieces of 32 entries, and what one update does at its two ends. -/

namespace Sys2Proof.Machine

@[simp] theorem crcTable0_length : crcTable0.length = 32 := rfl
@[simp] theorem crcTable1_length : crcTable1.length = 32 := rfl
@[simp] theorem crcTable2_length : crcTable2.length = 32 := rfl
@[simp] theorem crcTable3_length : crcTable3.length = 32 := rfl
@[simp] theorem crcTable4_length : crcTable4.length = 32 := rfl
@[simp] theorem crcTable5_length : crcTable5.length = 32 := rfl
@[simp] theorem crcTable6_length : crcTable6.length = 32 := rfl
@[simp] theorem crcTable7_length : crcTable7.length = 32 := rfl

theorem crcTable_length : crcTable.length = Config.crcTableSize := by
  unfold crcTable; simp only [List.length_append, crcTable0_length, crcTable1_length, crcTable2_length, crcTable3_length, crcTable4_length, crcTable5_length, crcTable6_length, crcTable7_length]

/-- The entries of one piece of the table are their indices shifted eight times (R92). -/
def pieceRight (piece : List U16) (start : Nat) : Bool :=
  (List.range piece.length).all fun k => piece.getD k 0 == crcShift8 (BitVec.ofNat 16 (start + k) <<< 8)

theorem crcTable0_right : pieceRight crcTable0 0 = true := rfl
theorem crcTable1_right : pieceRight crcTable1 32 = true := rfl
theorem crcTable2_right : pieceRight crcTable2 64 = true := rfl
theorem crcTable3_right : pieceRight crcTable3 96 = true := rfl
theorem crcTable4_right : pieceRight crcTable4 128 = true := rfl
theorem crcTable5_right : pieceRight crcTable5 160 = true := rfl
theorem crcTable6_right : pieceRight crcTable6 192 = true := rfl
theorem crcTable7_right : pieceRight crcTable7 224 = true := rfl

theorem crcTable_zero : crcTable.getD 0 0 = 0 := rfl

@[simp] theorem crc16_nil : crc16 [] = 0xFFFF := rfl

theorem crc16_append (s t : List Byte) : crc16 (s ++ t) = t.foldl crcUpdate (crc16 s) := List.foldl_append

end Sys2Proof.Machine
end

