-- ==== Sys2Proof/Laws/Decode.lean ====
section
/-! SUPPORT. The command rows of the opcode table do not overlap and leave no operation code out (R62). -/

namespace Sys2Proof

/-- Every operation code is in exactly one row. -/
theorem opRows_unambiguous (op : BitVec 4) : (opRows.filter fun row => row.admits op).length = 1 := by
  revert op; decide

/-- A command's operation code is the low four bits the encoder writes, and its row admits it. -/
theorem opRows_names : opRows.map (·.mnemonic) =
    ["CRC.CALC", "COBS.ENC", "COBS.DEC", "LINK.SEND", "LINK.RX", "LINK.POUT", "LINK.PIN", "LINK.RESET", "LINK.MAXPL",
      "unassigned_0x9", "unassigned_0xA-0xB", "unassigned_0xC-0xF"] := by decide

end Sys2Proof
end

