-- ==== Sys2Proof/Laws/LinkTx.lean ====
section
/-! SUPPORT. The transmit path: the frame, its encoding, and what the shared part of LINK.SEND and the downward call of
LINK.POUT answer, once. -/

namespace Sys2Proof.Machine

/-- `|frame| = L + 4` (R69). -/
@[simp] theorem linkFrame_length (p : List Byte) : (linkFrame p).length = p.length + 4 := by
  simp [linkFrame, leBytes]

theorem linkFrame_ne_nil (p : List Byte) : linkFrame p ≠ [] := by simp [linkFrame]

/-- With enough output capacity the encoder cannot fail on a frame (R124). -/
theorem cobsEncode_linkFrame {p : List Byte} {cap : Nat} (hp : p.length ≤ 250) (h : encBound (p.length + 4) ≤ cap) :
    cobsEncode (linkFrame p) cap = .ok (cobsEncodeBody (linkFrame p)) := by
  simp [cobsEncode, linkFrame_ne_nil, Nat.not_lt.2 h, show ¬ 254 < p.length + 4 by omega]

/-- Without it, the encoder fails whatever the payload bytes (R124). -/
theorem cobsEncode_linkFrame_small {p : List Byte} {cap : Nat} (hp : p.length ≤ 250)
    (h : cap < encBound (p.length + 4)) : cobsEncode (linkFrame p) cap = .error .outputTooSmall := by
  simp [cobsEncode, h, show ¬ 254 < p.length + 4 by omega]

/-- Room in the queue: the wire frame is appended, the event emitted, 0 returned (R126). -/
theorem sendFrame_queued {p : List Byte} {s : State} (hp : p.length ≤ 250)
    (hc : encBound (p.length + 4) ≤ s.params.encCap) (hr : fits s.outgoing (wire p)) :
    sendFrame p s = andThen (emit .outgoingDataAvailable (s.appendOutgoing (wire p))) (returns (.int 0)) := by
  unfold sendFrame
  rw [cobsEncode_linkFrame hp hc]
  exact if_pos hr

/-- No room: BufferFull, nothing queued (R126). -/
theorem sendFrame_full {p : List Byte} {s : State} (hp : p.length ≤ 250)
    (hc : encBound (p.length + 4) ≤ s.params.encCap) (hr : ¬fits s.outgoing (wire p)) :
    sendFrame p s = .next (s.pushResult (.err .bufferFull)) := by
  unfold sendFrame
  rw [cobsEncode_linkFrame hp hc]
  exact if_neg hr

/-- The encoder fails: General, nothing queued (R124). -/
theorem sendFrame_general {p : List Byte} {s : State} (hp : p.length ≤ 250)
    (hc : s.params.encCap < encBound (p.length + 4)) :
    sendFrame p s = .next (s.pushResult (.err .general)) := by
  unfold sendFrame
  rw [cobsEncode_linkFrame_small hp hc]
  rfl

/-- How many bytes one downward call submits (R131). -/
theorem submission_length (s : State) : s.submission.length = min s.outgoing.length s.params.phyMax := by
  simp [State.submission]

/-- The bytes taken in one call followed by what stays queued are the queue (R133, R137). -/
theorem accepted_append_drop {q : List Byte} {n : Nat} {r : Int} (h : r ≤ n) :
    (PhyCall.accepted ⟨q.take n, r⟩) ++ q.drop r.toNat = q := by
  have hn : r.toNat ≤ n := by omega
  simp only [PhyCall.accepted, List.take_take, Nat.min_eq_left hn]
  exact List.take_append_drop _ _

end Sys2Proof.Machine
end

