-- ==== Sys2Proof/Tests/Slice0.lean ====
section
/-! SUPPORT. Tests. Expected values are the spec's vectors (95_test_vectors.md sections 1 and 2, named in each comment)
or the tables of 30_encoding.md; and one witness theorem for each obligation with hypotheses. -/

namespace Sys2Proof.Tests

open Sys2Proof.Machine

/-- The answer is a next state with this property. -/
def nextIs (o : Outcome) (p : State → Bool) : Bool :=
  match o with
  | .next s => p s
  | .fault _ => false
  | .refused _ => false

/-- The answer is this refusal. -/
def refusedAs (o : Outcome) (r : Refusal) : Bool :=
  match o with
  | .next _ => false
  | .fault _ => false
  | .refused r' => r' == r

/-- The reset state with bytes waiting in the incoming queue. -/
def inQ (q : List Byte) : State := { State.reset with incoming := q }

/-- The reset state with bytes waiting in the outgoing queue. -/
def outQ (q : List Byte) : State := { State.reset with outgoing := q }

/-- The last result is this one. -/
def lastIs (s : State) (r : OpResult) : Bool := s.results.getLast? == some r

/-! ### Well-formedness: each check refuses an ill-formed term -/

theorem test_wf_reserved_type_is_not_data : (Instr.frameTypeReserved 0x01).wellFormed = false := by decide
theorem test_wf_code_run_is_not_zero : (Instr.cobsCodeRun 0x00).wellFormed = false := by decide
theorem test_wf_code_run_is_not_full : (Instr.cobsCodeRun 0xFF).wellFormed = false := by decide
theorem test_wf_data_is_not_zero : (Instr.cobsData 0x00).wellFormed = false := by decide
theorem test_wf_accepts_the_ends : (Instr.cobsCodeRun 0x01).wellFormed && (Instr.cobsCodeRun 0xFE).wellFormed &&
    (Instr.cobsData 0xFF).wellFormed && (Instr.frameTypeReserved 0x00).wellFormed = true := by decide

/-! ### Decoding: each row's word, bit by bit from R62, R64 and R71 -/

theorem test_decode_crcCalc : decode (.cmd 0b0000 [.seq [0x41]]) = .ok (.crcCalc [0x41]) := rfl
theorem test_decode_cobsEnc : decode (.cmd 0b0001 [.maybeSeq (some []), .nat 257]) = .ok (.cobsEnc (some []) 257) := rfl
theorem test_decode_cobsDec : decode (.cmd 0b0010 [.maybeSeq none, .nat 254]) = .ok (.cobsDec none 254) := rfl
theorem test_decode_linkSend :
    decode (.cmd 0b0011 [.maybeSeq (some [0x11]), .nat 1]) = .ok (.linkSend (.bytes [0x11])) := rfl
theorem test_decode_linkRx : decode (.cmd 0b0100 [.maybeSeq (some []), .nat 0]) = .ok (.linkRx (.bytes [])) := rfl
theorem test_decode_linkPout : decode (.cmd 0b0101 [.answer 5]) = .ok (.linkPout 5) := rfl
theorem test_decode_linkPin : decode (.cmd 0b0110 []) = .ok .linkPin := rfl
theorem test_decode_linkReset : decode (.cmd 0b0111 []) = .ok .linkReset := rfl
theorem test_decode_linkMaxpl : decode (.cmd 0b1000 []) = .ok .linkMaxpl := rfl
theorem test_decode_unassigned9 : decode (.cmd 0b1001 []) = .ok .unassigned9 := rfl
theorem test_decode_unassignedAB : decode (.cmd 0b1010 []) = .ok (.unassignedAB 0b0) := rfl
theorem test_decode_unassignedCF : decode (.cmd 0b1110 []) = .ok (.unassignedCF 0b10) := rfl
theorem test_decode_frameTypeData : decode (.frameType 0b00000001) = .ok .frameTypeData := rfl
theorem test_decode_frameTypeReserved : decode (.frameType 0b00000010) = .ok (.frameTypeReserved 0x02) := rfl
theorem test_decode_wireDelimiter : decode (.wire 0b00000000) = .ok .wireDelimiter := rfl
theorem test_decode_cobsCodeRun : decode (.wireCode 0b11111110) = .ok (.cobsCodeRun 0xFE) := rfl
theorem test_decode_cobsCodeFull : decode (.wireCode 0b11111111) = .ok .cobsCodeFull := rfl
theorem test_decode_cobsData : decode (.wireData 0b11111111) = .ok (.cobsData 0xFF) := rfl
theorem test_decode_rejects_wrong_operands : decode (.cmd 0b0000 [.nat 1]) = .error (.wrongOperands 0x0) := rfl
theorem test_decode_rejects_wrong_length :
    decode (.cmd 0b0011 [.maybeSeq (some [0x11]), .nat 2]) = .error (.lengthMismatch 0x3) := rfl
theorem test_decode_rejects_unplaced_byte : decode (.wire 0x11) = .error (.positionUnknown 0x11) := rfl

/-- The host's numbering: the rows 0x0 to 0xF as operation codes, 0xFF as a code byte (log 1). -/
theorem test_decodeTableWord : decodeTableWord 8 0x3 = some (.linkSend (.null 0)) ∧
    decodeTableWord 8 0xC = some (.unassignedCF 0) ∧ decodeTableWord 8 0xFF = some .cobsCodeFull := ⟨rfl, rfl, rfl⟩
theorem test_withFetchWord_runs_the_word :
    nextIs (step (State.reset.withFetchWord 8 0x8)) (fun t => lastIs t (.int 250) && t.pending == []) = true := by decide
theorem test_withFetchWord_refuses_unassigned :
    refusedAs (step (State.reset.withFetchWord 8 0x9)) (.unassignedOpcode 0x9) = true := by decide

/-! ### One step each -/

/-- V-C2, the published check value. -/
theorem test_crcCalc_check_value :
    nextIs (exec (.crcCalc [0x31, 0x32, 0x33, 0x34, 0x35, 0x36, 0x37, 0x38, 0x39]) State.reset)
      (fun t => lastIs t (.crc 0x29B1)) = true := by decide
/-- V-C3: a leading zero byte counts. -/
theorem test_crcCalc_zero_byte :
    nextIs (exec (.crcCalc [0x00]) State.reset) (fun t => lastIs t (.crc 0xE1F0)) = true := by decide
/-- V-E7. -/
theorem test_cobsEnc_zeros :
    nextIs (exec (.cobsEnc (some [0x11, 0x00, 0x00, 0x00]) 257) State.reset)
      (fun t => lastIs t (.encoded [0x02, 0x11, 0x01, 0x01, 0x01])) = true := by decide
/-- V-E21: unspecified, refused. -/
theorem test_cobsEnc_nothing_no_room :
    refusedAs (exec (.cobsEnc (some []) 0) State.reset) .encEmptyNoRoom = true := by decide
/-- V-D11: bytes after the delimiter are ignored. -/
theorem test_cobsDec_ignores_the_rest :
    nextIs (exec (.cobsDec (some [0x01, 0x01, 0x01, 0x01, 0x00, 0x09, 0x09]) 254) State.reset)
      (fun t => lastIs t (.decoded [0x00, 0x00, 0x00] 5)) = true := by decide
/-- V-D7 and V-D19: an overrun, and `Incomplete` before it. -/
theorem test_cobsDec_failures :
    nextIs (exec (.cobsDec (some [0x03, 0x11, 0x00]) 254) State.reset) (fun t => lastIs t (.err .invalidInput)) &&
    nextIs (exec (.cobsDec (some [0x05, 0x11, 0x22]) 254) State.reset) (fun t => lastIs t (.err .incomplete)) = true := by
  decide
/-- V-S8: frame 01 04 00 00 00 00 B6 C2. -/
theorem test_linkSend_zeros :
    nextIs (exec (.linkSend (.bytes [0x00, 0x00, 0x00, 0x00])) State.reset)
      (fun t => t.outgoing == [0x03, 0x01, 0x04, 0x01, 0x01, 0x01, 0x03, 0xB6, 0xC2, 0x00] &&
        t.events == [.outgoingDataAvailable] && lastIs t (.int 0)) = true := by decide
/-- V-S13: the auto-reset. -/
theorem test_linkSend_from_error :
    nextIs (exec (.linkSend (.bytes [0x22])) { State.reset with linkState := .error })
      (fun t => t.linkState == .ready && t.outgoing == [0x06, 0x01, 0x01, 0x22, 0xBD, 0xCC, 0x00]) = true := by decide
/-- V-O4, shortened: a partial write. -/
theorem test_linkPout_partial :
    nextIs (exec (.linkPout 5) (outQ [0x0D, 0x01, 0x08, 0x06, 0x01, 0x2B, 0x00]))
      (fun t => t.outgoing == [0x2B, 0x00] && lastIs t (.int 5) && t.linkState == .ready) = true := by decide
/-- V-O6 and V-O7: a hardware failure is passed on, an impossible answer is refused. -/
theorem test_linkPout_answers :
    nextIs (exec (.linkPout (-7)) (outQ [0x02, 0x00])) (fun t => t.outgoing == [0x02, 0x00] && lastIs t (.int (-7))) &&
    refusedAs (exec (.linkPout 3) (outQ [0x02, 0x00])) .answerTooLarge = true := by decide
/-- V-R3, on a full queue: the queue is cleared, no event. -/
theorem test_linkRx_overflow :
    nextIs (exec (.linkRx (.bytes [0x00])) (inQ (List.replicate 514 0x55)))
      (fun t => t.incoming == [] && t.events == [] && lastIs t (.err .bufferFull)) = true := by decide +kernel
/-- An empty deposit emits (R143). -/
theorem test_linkRx_empty :
    nextIs (exec (.linkRx (.bytes [])) State.reset)
      (fun t => t.incoming == [] && t.events == [.incomingDataAvailable]) = true := by decide
/-- V-P9: a frame is delivered, before its event (R198), the bytes after its delimiter are kept. -/
theorem test_linkPin_delivers :
    nextIs (exec .linkPin (inQ [0x06, 0x01, 0x04, 0x08, 0x01, 0x2C, 0x03, 0xCE, 0x33, 0x00, 0x06, 0x01]))
      (fun t => t.outputs == [.delivery [0x08, 0x01, 0x2C, 0x00], .event .frameReceived, .result (.int 0)] &&
        t.incoming == [0x06, 0x01]) =
      true := by decide
/-- V-P8 and V-P7: a CRC mismatch has its event, a reserved type has none; both leave ERROR. -/
theorem test_linkPin_errors :
    nextIs (exec .linkPin (inQ [0x06, 0x01, 0x04, 0x07, 0x01, 0x2B, 0x03, 0xB7, 0x7F, 0x00]))
      (fun t => t.linkState == .error && t.events == [.crcError] && t.delivered == []) &&
    nextIs (exec .linkPin (inQ [0x06, 0x02, 0x01, 0xAA, 0x6D, 0x85, 0x00]))
      (fun t => t.linkState == .error && t.events == [] && t.delivered == []) = true := by decide
/-- V-X1. -/
theorem test_linkReset :
    nextIs (exec .linkReset { State.reset with linkState := .error, outgoing := [0x02, 0x00], incoming := [0x01] })
      (fun t => t.linkState == .ready && t.outgoing == [] && t.incoming == [] && t.events == []) = true := by decide
/-- V-X2. -/
theorem test_linkMaxpl : nextIs (exec .linkMaxpl State.reset) (fun t => lastIs t (.int 250)) = true := by decide

/-- A walk over the body `02 11` of R116 (c), (d) at its first code byte. -/
theorem test_cobsCodeRun :
    nextIs (exec (.cobsCodeRun 0x02) (inQ [0x02, 0x11, 0x00]))
      (fun t => t.walk == some (.body ⟨2, 1, 0x02, 1, []⟩)) = true := by decide
/-- R161 (c): `11 00`, the run passes the delimiter, one byte is skipped. -/
theorem test_cobsCodeRun_overrun :
    nextIs (exec (.cobsCodeRun 0x11) (inQ [0x11, 0x00])) (fun t => t.incoming == [0x00] && t.walk == none) = true := by
  decide
/-- R116 (m): 253 data bytes are too few for a full run. -/
theorem test_cobsCodeFull_overrun :
    nextIs (exec .cobsCodeFull (inQ [0xFF, 0x01, 0x00])) (fun t => t.incoming == [0x01, 0x00] && t.walk == none) = true := by
  decide
/-- R116 (e): after the data byte of `02 11 01 00` an implicit zero. -/
theorem test_cobsData_implicit_zero :
    nextIs (exec (.cobsData 0x11) { inQ [0x02, 0x11, 0x01, 0x00] with walk := some (.body ⟨3, 1, 0x02, 1, []⟩) })
      (fun t => t.walk == some (.body ⟨3, 2, 0x02, 0, [0x11, 0x00]⟩)) = true := by decide
/-- R116 (d): none after the last run. -/
theorem test_cobsData_last_run :
    nextIs (exec (.cobsData 0x11) { inQ [0x02, 0x11, 0x00] with walk := some (.body ⟨2, 1, 0x02, 1, []⟩) })
      (fun t => t.walk == some (.body ⟨2, 2, 0x02, 0, [0x11]⟩)) = true := by decide
/-- V-P4: an empty wire frame is skipped. -/
theorem test_wireDelimiter_empty :
    nextIs (exec .wireDelimiter (inQ [0x00, 0x00])) (fun t => t.incoming == [0x00] && t.walk == none) = true := by decide

/-- The registers of a frame `01 00 3E 2E` (R97) that waits for its TYPE. -/
def emptyFrame : FrameRegs := ⟨[0x01, 0x00, 0x3E, 0x2E], 6, 0x00, 0x2E3E, 0x2E3E⟩

/-- R161 (d): the body `02 01 03 3E 2E` ends, its frame passes the checks. -/
theorem test_wireDelimiter_passes :
    nextIs (exec .wireDelimiter
      { inQ [0x02, 0x01, 0x03, 0x3E, 0x2E, 0x00] with walk := some (.body ⟨5, 5, 0x03, 0, [0x01, 0x00, 0x3E, 0x2E]⟩) })
      (fun t => t.walk == some (.frame emptyFrame)) = true := by decide
/-- R161 (d): and is delivered as the empty payload. -/
theorem test_frameTypeData :
    nextIs (exec .frameTypeData { inQ [0x02, 0x01, 0x03, 0x3E, 0x2E, 0x00] with walk := some (.frame emptyFrame) })
      (fun t => t.delivered == [[]] && t.events == [.frameReceived] && t.incoming == [] && t.walk == none) = true := by
  decide
/-- V-P7, its last symbol. -/
theorem test_frameTypeReserved :
    nextIs (exec (.frameTypeReserved 0x02)
      { inQ [0x06, 0x02, 0x01, 0xAA, 0x6D, 0x85, 0x00] with
        walk := some (.frame ⟨[0x02, 0x01, 0xAA, 0x6D, 0x85], 7, 0x01, 0x856D, 0x856D⟩) })
      (fun t => t.linkState == .error && t.delivered == [] && t.events == [] && t.incoming == []) = true := by decide

/-! ### Witnesses: for each obligation with hypotheses, a state and operands that meet all of them, each clause at an end
of its range -/

/-- What `nextIs` says. -/
theorem nextIs_sound {o : Outcome} {p : State → Bool} (h : nextIs o p = true) : ∃ t, o = .next t ∧ p t = true := by
  cases o with
  | next t => exact ⟨t, rfl, h⟩
  | fault r => cases r
  | refused r => cases h

/-- `n` bytes 0x11. -/
def ones (n : Nat) : List Byte := List.replicate n 0x11

/-- The queue `q` with the walk of its body at `r`. -/
def bodyAt (q : List Byte) (r : BodyRegs) : State := { inQ q with walk := some (.body r) }

/-- A frame that passes steps 3 to 5, waiting for its TYPE. -/
def frameAt (f : FrameRegs) : State :=
  { inQ [0x02, 0x01, 0x03, 0x3E, 0x2E, 0x00] with walk := some (.frame f) }

/-- The same state in ERROR. -/
def inError (s : State) : State := { s with linkState := .error }

/-- The same state with these neighbours. -/
def wired (physical upper events : Bool) (s : State) : State := { s with wiring := ⟨physical, upper, events⟩ }

/-- `WIRE([08 01 2C 00])` (R146), its decoded frame (R162). -/
def goodWire : List Byte := [0x06, 0x01, 0x04, 0x08, 0x01, 0x2C, 0x03, 0xCE, 0x33, 0x00]
def goodFrame : List Byte := [0x01, 0x04, 0x08, 0x01, 0x2C, 0x00, 0xCE, 0x33]
/-- R161 (f), a reserved TYPE; R161 (e), a wrong LENGTH; V-P8's wire frame, a wrong CRC. -/
def reservedWire : List Byte := [0x06, 0x02, 0x01, 0xAA, 0x6D, 0x85, 0x00]
def wrongLengthWire : List Byte := [0x07, 0x01, 0x05, 0xAA, 0xBB, 0x81, 0xFD, 0x00]
def wrongCrcWire : List Byte := [0x06, 0x01, 0x04, 0x07, 0x01, 0x2B, 0x03, 0xB7, 0x7F, 0x00]
def wrongCrcFrame : List Byte := [0x01, 0x04, 0x07, 0x01, 0x2B, 0x00, 0xB7, 0x7F]

theorem witness_StepRunsTheDecodedWord :
    (State.reset.pushPending (.cmd 0x6 [])).pending = [.cmd 0x6 []] ∧ decode (.cmd 0x6 []) = .ok .linkPin ∧
    Instr.linkPin.wellFormed = true := ⟨rfl, rfl, rfl⟩
theorem witness_StepWaitsAndRefusesByName :
    State.reset.pending = [] ∧ (State.reset.pushPending (.wire 0x11)).pending = [.wire 0x11] ∧
    decode (.wire 0x11) = .error (.positionUnknown 0x11) := ⟨rfl, rfl, rfl⟩
theorem witness_DecodedInstructionsAreWellFormed :
    decode (.wireCode 0x01) = .ok (.cobsCodeRun 0x01) ∧ decode (.wireCode 0xFE) = .ok (.cobsCodeRun 0xFE) ∧
    decode (.frameType 0x02) = .ok (.frameTypeReserved 0x02) ∧ decode (.wireData 0x01) = .ok (.cobsData 0x01) :=
  ⟨rfl, rfl, rfl, rfl⟩
theorem witness_DecodeInvertsEncode :
    (Instr.cobsCodeRun 0xFE).wellFormed = true ∧ (Instr.frameTypeReserved 0x00).wellFormed = true ∧
    (Instr.cobsData 0xFF).wellFormed = true := ⟨rfl, rfl, rfl⟩
theorem witness_UnassignedCodesAreRefused :
    9 ≤ (0x9 : BitVec 4).toNat ∧ 9 ≤ (0xF : BitVec 4).toNat ∧
    (State.reset.pushPending (.cmd 0xF [.nat 3])).pending = .cmd 0xF [.nat 3] :: [] := by decide
theorem witness_CrcCalcAnswersTheChecksum : State.reset.AtBoundary ∧ (inError State.reset).AtBoundary := by decide
theorem witness_CobsEncAnswersByItsChecks :
    State.reset.AtBoundary ∧ 254 < (ones 255).length ∧
    ((ones 254).length ≤ 254 ∧ ¬(ones 254 = [] ∧ 255 = 0) ∧ 255 < (ones 254).length + (ones 254).length / 254 + 1) ∧
    ((ones 1).length ≤ 254 ∧ ¬(ones 1 = [] ∧ 0 = 0) ∧ 0 < (ones 1).length + (ones 1).length / 254 + 1) ∧
    (ones 254 ≠ [] ∧ (ones 254).length + (ones 254).length / 254 + 1 ≤ 256) ∧
    (ones 1 ≠ [] ∧ (ones 1).length + (ones 1).length / 254 + 1 ≤ 2) := by decide +kernel
theorem witness_EncodedBytesContainNoZero : cobsEncode [0x00] 2 = .ok [0x01, 0x01] ∧ cobsEncode [] 1 = .ok [] := ⟨rfl, rfl⟩
theorem witness_EncodedLengthIsOneMore :
    ((ones 254).length = 254 ∧ ZeroFree (ones 254)) ∧ ¬((ones 253).length = 254 ∧ ZeroFree (ones 253)) ∧
    ¬((0x00 :: ones 253).length = 254 ∧ ZeroFree (0x00 :: ones 253)) ∧ (0x00 :: ones 253).length ≤ 254 := by decide +kernel
theorem witness_CodecRoundTrip :
    State.reset.AtBoundary ∧ (ones 254).length ≤ 254 ∧ (ones 254).length + (ones 254).length / 254 + 1 ≤ 256 ∧
    (ones 254).length ≤ 254 ∧ ([] : List Byte).length + ([] : List Byte).length / 254 + 1 ≤ 1 := by decide +kernel
theorem witness_CobsDecAnswersInOrder :
    State.reset.AtBoundary ∧ ZeroFree [] ∧ ZeroFree (ones 3) ∧ ¬ZeroFree [0x02, 0x11, 0x00] ∧
    ¬ZeroFree [0x03, 0x11, 0x00] := by decide
theorem witness_DecoderIgnoresWhatFollowsTheDelimiter : ZeroFree [] ∧ ZeroFree (ones 2) := by decide
theorem witness_DecoderWalksRunByRun :
    (ZeroFree (ones 1) ∧ (ones 1).length + 1 < (0x03 : Byte).toNat) ∧
    (ZeroFree (ones 2) ∧ ZeroFree [] ∧ (ones 2).length + 1 = (0x03 : Byte).toNat ∧ 1 < (ones 2).length) ∧
    ((ones 2).length ≤ 2 ∧ (0x03 : Byte) ≠ 0xFF) ∧ ((ones 0).length + 1 = (0x01 : Byte).toNat) ∧
    ((ones 254).length + 1 = (0xFF : Byte).toNat ∧ ZeroFree (ones 254) ∧ ones 1 ≠ [] ∧ (ones 254).length ≤ 254) := by
  decide +kernel
theorem witness_DecodedBytesFitTheCapacity :
    cobsDecode [0x02, 0x11, 0x01, 0x00] 2 = .ok ([0x11, 0x00], 4) ∧ cobsDecode [0x00] 0 = .ok ([], 1) := ⟨rfl, rfl⟩
theorem witness_SendRefusesBadOperands : (inError State.reset).AtBoundary ∧ 250 < (ones 251).length := by decide +kernel
theorem witness_FrameIsTypeLengthPayloadCrc : (ones 0).length ≤ 250 ∧ (ones 250).length ≤ 250 := by decide +kernel
theorem witness_WireFrameIsBodyAndOneDelimiter : (ones 0).length ≤ 250 ∧ (ones 250).length ≤ 250 := by decide +kernel

/-- An exact fit: a wire frame of 9 bytes and a queue of 505. -/
theorem witness_SendQueuesOneWireFrame :
    (inError (outQ (ones 505))).AtBoundary ∧ (outQ (ones 505)).wiring.events = true ∧
    encBound ((ones 3).length + 4) ≤ (outQ (ones 505)).params.encCap ∧
    (outQ (ones 505)).outgoing.length + (wire (ones 3)).length = 514 ∧
    encBound ((ones 250).length + 4) ≤ State.reset.params.encCap := by decide +kernel
theorem witness_SendFailuresLeaveTheQueues :
    (254 < encBound ((ones 250).length + 4) ∧ (State.resetWith ⟨254, 514⟩).params.encCap = 254 ∧
      (State.resetWith ⟨254, 514⟩).AtBoundary) ∧
    (encBound ((ones 3).length + 4) ≤ (outQ (ones 506)).params.encCap ∧
      (outQ (ones 506)).outgoing.length + (wire (ones 3)).length = 515) := by decide +kernel
theorem witness_PoutIsHeldOff :
    State.reset.outgoing = [] ∧ (inError (outQ (ones 2))).linkState = .error ∧ (inError (outQ (ones 2))).AtBoundary := by
  decide

/-- With no clamp and with a clamp of 1: the largest answer, 0, and a failure. -/
theorem witness_PoutSubmitsTheHead :
    (outQ (ones 2)).linkState = .ready ∧ (outQ (ones 2)).outgoing ≠ [] ∧ (outQ (ones 2)).wiring.physical = true ∧
    (2 : Int) ≤ min (outQ (ones 2)).outgoing.length (outQ (ones 2)).params.phyMax ∧
    (0 : Int) ≤ min (outQ (ones 2)).outgoing.length (outQ (ones 2)).params.phyMax ∧
    (-32 : Int) ≤ min (outQ (ones 2)).outgoing.length (outQ (ones 2)).params.phyMax ∧
    (1 : Int) ≤ min (outQ (ones 2)).outgoing.length 1 := by decide
theorem witness_TransmittedBytesAreTheSentFrames :
    nextIs (exec (.linkSend (.bytes [])) State.reset)
      (fun t => t.results == State.reset.results ++ [.int 0] && t.outgoing == [0x02, 0x01, 0x03, 0x3E, 0x2E, 0x00]) &&
    nextIs (exec (.linkPout 1) (outQ (ones 2))) (fun t => t.acceptedBytes == ones 1 && t.outgoing == ones 1) = true := by
  decide
theorem witness_RxAppendsOrClears :
    (inQ (ones 514)).AtBoundary ∧ 514 < (inQ (ones 514)).incoming.length + (ones 1).length ∧
    (inQ (ones 513)).incoming.length + (ones 1).length ≤ 514 ∧ (inQ (ones 514)).incoming.length + (ones 0).length ≤ 514 ∧
    (inQ (ones 513)).wiring.events = true := by decide +kernel
theorem witness_PinConsumesEveryDelimiter :
    (inError (inQ goodWire)).AtBoundary ∧ (inQ goodWire).wiring.upper = true ∧ (inQ goodWire).wiring.events = true := by
  decide
theorem witness_PinAwaitsADelimiter : State.reset.AtBoundary ∧ ZeroFree State.reset.incoming ∧ ZeroFree (ones 2) := by decide
theorem witness_PinSkipsOneByte :
    cobsDecode [0x03, 0x11, 0x00] 254 = .error .invalidInput ∧
    cobsDecode [0x00] 254 = .ok ([], 1) ∧ ([] : List Byte).length < 4 ∧
    cobsDecode [0x04, 0x11, 0x11, 0x11, 0x00] 254 = .ok (ones 3, 5) ∧ (ones 3).length < 4 := ⟨rfl, rfl, by decide, rfl, by decide⟩
/-- R161 (i), its shape. -/
theorem witness_PinSkipsOneByte_capacity :
    (match cobsDecode (0xFF :: ones 254 ++ [0x02, 0x08, 0x00]) 254 with
      | .ok _ => false
      | .error e => e == .outputTooSmall) = true := by decide +kernel
theorem witness_PinDropsAWrongLength :
    (cobsDecode wrongLengthWire 254 = .ok ([0x01, 0x05, 0xAA, 0xBB, 0x81, 0xFD], 8) ∧
      ([0x01, 0x05, 0xAA, 0xBB, 0x81, 0xFD] : List Byte).length ≠ (0x05 : Byte).toNat + 4) ∧
    (cobsDecode [0x05, 0x01, 0xFB, 0x11, 0x11, 0x00] 254 = .ok ([0x01, 0xFB, 0x11, 0x11], 6) ∧
      250 < (0xFB : Byte).toNat) := ⟨⟨rfl, by decide⟩, rfl, by decide⟩
theorem witness_PinReportsACrcMismatch :
    (inQ wrongCrcWire).AtBoundary ∧ (inQ wrongCrcWire).wiring.events = true ∧
    cobsDecode wrongCrcWire 254 = .ok (wrongCrcFrame, 10) ∧ RightLength wrongCrcFrame ∧ ¬RightCrc wrongCrcFrame :=
  ⟨by decide, rfl, rfl, by decide, by decide⟩
theorem witness_PinDeliversADataFrame :
    (inQ goodWire).AtBoundary ∧ (inQ goodWire).wiring.upper = true ∧ (inQ goodWire).wiring.events = true ∧
    cobsDecode goodWire 254 = .ok (goodFrame, 10) ∧ RightLength goodFrame ∧ RightCrc goodFrame ∧
    goodFrame.getD 0 0 = 0x01 := ⟨by decide, rfl, rfl, rfl, by decide, by decide, rfl⟩
/-- The smallest frame, R161 (d). -/
theorem witness_PinDeliversADataFrame_empty :
    cobsDecode [0x02, 0x01, 0x03, 0x3E, 0x2E, 0x00] 254 = .ok (emptyFrame.decoded, 6) ∧ RightLength emptyFrame.decoded ∧
    RightCrc emptyFrame.decoded := ⟨rfl, by decide, by decide⟩
theorem witness_PinRejectsAReservedType :
    (inQ reservedWire).AtBoundary ∧ cobsDecode reservedWire 254 = .ok ([0x02, 0x01, 0xAA, 0x6D, 0x85], 7) ∧
    RightLength [0x02, 0x01, 0xAA, 0x6D, 0x85] ∧ RightCrc [0x02, 0x01, 0xAA, 0x6D, 0x85] ∧ (0x02 : Byte) ≠ 0x01 :=
  ⟨by decide, rfl, by decide, by decide, by decide⟩
theorem witness_PinRecoversASentFrame :
    (inQ (goodWire ++ [0x06, 0x01])).AtBoundary ∧ (inQ (goodWire ++ [0x06, 0x01])).wiring.upper = true ∧
    (inQ (goodWire ++ [0x06, 0x01])).wiring.events = true ∧ ([0x08, 0x01, 0x2C, 0x00] : List Byte).length ≤ 250 ∧
    (inQ (goodWire ++ [0x06, 0x01])).incoming = wire [0x08, 0x01, 0x2C, 0x00] ++ [0x06, 0x01] := by decide

/-- The empty payload, sent, taken in two partial writes, deposited in two chunks. -/
theorem witness_LoopbackDeliversThePayload :
    nextIs (andThen (exec (.linkSend (.bytes [])) State.reset) (fun x1 => transmit [2, 4] x1))
      (fun x2 => x2.outgoing == [] && x2.acceptedBytes == ([[0x02, 0x01], [0x03, 0x3E, 0x2E, 0x00]] : List (List Byte)).flatten)
      = true := by decide
theorem witness_LinkResetEmptiesTheQueues : (inError (outQ (ones 2))).AtBoundary := by decide
theorem witness_MaxplAnswers250 : State.reset.AtBoundary := by decide
theorem witness_QuiescentBlockIsStill : (inError (inQ (ones 2))).AtBoundary ∧ (inError (inQ (ones 2))).Quiescent := by decide
theorem witness_StepKeepsTheQueueCapacity :
    (inQ (ones 513)).QueuesFit ∧
    nextIs (step ((inQ (ones 513)).pushPending (encode (.linkRx (.bytes (ones 1)))))) (fun t => t.incoming == ones 514) = true := by
  decide +kernel
theorem witness_StepNeverEndsInSending :
    ((outQ (ones 2)).pushPending (encode (.linkPout 1))).AtBoundary ∧
    nextIs (step ((outQ (ones 2)).pushPending (encode (.linkPout 1)))) (fun t => t.linkState == .ready) = true := by decide

/-- From the empty queue to one whole wire frame, then a cut at its head. -/
theorem witness_StepKeepsTheOutgoingWireFrames :
    OutgoingIsWireFrames State.reset.outgoing ∧
    nextIs (andThen (step (State.reset.pushPending (encode (.linkSend (.bytes [])))))
      (fun s => step (s.pushPending (encode (.linkPout 1))))) (fun t => t.outgoing == [0x01, 0x03, 0x3E, 0x2E, 0x00]) = true :=
  ⟨⟨[], [], [], by decide, ⟨wire [], List.append_nil _⟩, by decide, rfl⟩, by decide⟩

/-- A frame waiting for its TYPE agrees with the queue, and the step delivers it. -/
theorem witness_StepKeepsTheWalkInAgreement :
    (frameAt emptyFrame).WalkAgrees ∧
    nextIs (step ((frameAt emptyFrame).pushPending (encode .frameTypeData))) (fun t => t.delivered == [[]]) = true := by
  refine ⟨⟨?_, by intro x hx; cases hx⟩, by decide⟩
  intro w hw; cases hw
  exact ⟨rfl, by decide, by decide, rfl⟩
theorem witness_OutputsOnlyGrow :
    nextIs (step ((outQ (ones 2)).pushPending (encode (.linkPout 1)))) (fun t => t.phyCalls.length == 1 && t.results == [.int 1]) =
      true := by decide
theorem witness_OnlyTheseLeaveError :
    nextIs (exec (.linkSend (.bytes [])) (inError State.reset)) (fun t => t.linkState != .error) &&
    nextIs (exec .linkReset (inError State.reset)) (fun t => t.linkState != .error) &&
    nextIs (exec .linkPin (inError (inQ goodWire))) (fun t => t.linkState != .error) &&
    nextIs (exec .frameTypeData (inError (frameAt emptyFrame))) (fun t => t.linkState != .error) = true := by decide
theorem witness_OnlyReceptionSetsError :
    nextIs (exec .linkPin (inQ wrongCrcWire)) (fun t => t.linkState == .error) &&
    nextIs (exec .wireDelimiter (bodyAt wrongCrcWire ⟨9, 9, 0x03, 0, wrongCrcFrame⟩)) (fun t => t.linkState == .error) &&
    nextIs (exec (.frameTypeReserved 0x02) (frameAt { emptyFrame with decoded := [0x02, 0x00, 0x00, 0x00] }))
      (fun t => t.linkState == .error) = true := by decide
theorem witness_WritersOfTheQueues :
    nextIs (exec (.linkSend (.bytes [])) State.reset) (fun t => t.outgoing != []) &&
    nextIs (exec (.linkPout 1) (outQ (ones 2))) (fun t => t.outgoing != ones 2 && t.phyCalls != []) &&
    nextIs (exec (.linkRx (.bytes (ones 1))) State.reset) (fun t => t.incoming != []) &&
    nextIs (exec .linkPin (inQ goodWire)) (fun t => t.incoming != goodWire && t.delivered != []) &&
    nextIs (exec (.cobsCodeRun 0x03) (inQ [0x03, 0x11, 0x00])) (fun t => t.incoming != [0x03, 0x11, 0x00]) = true := by decide
theorem witness_EventsOfEachInstruction :
    nextIs (exec (.linkSend (.bytes [])) State.reset) (fun t => t.results == [.int 0]) &&
    nextIs (exec (.linkSend (.null 0)) State.reset) (fun t => t.results != [.int 0]) &&
    nextIs (exec (.linkRx (.bytes [])) State.reset) (fun t => t.results == [.int 0]) &&
    nextIs (exec (.linkRx (.null 0)) State.reset) (fun t => t.results != [.int 0]) &&
    nextIs (exec .linkPin (inQ goodWire)) (fun t => t.events == [.frameReceived]) = true := by decide
theorem witness_NothingStartsInSending : { State.reset with linkState := .sending }.linkState = LinkState.sending := rfl
theorem witness_BrokenContractsAreRefused :
    ((wired true true false (outQ (ones 505))).wiring.events = false ∧ (ones 3).length ≤ 250 ∧
      encBound ((ones 3).length + 4) ≤ State.reset.params.encCap ∧
      (wired true true false (outQ (ones 505))).outgoing.length + (wire (ones 3)).length ≤ 514) ∧
    ((wired true true false (inQ (ones 513))).incoming.length + (ones 1).length ≤ 514 ∧
      (wired true true false (inQ (ones 513))).AtBoundary) ∧
    ((wired false true true (outQ (ones 2))).wiring.physical = false ∧ (wired false true true (outQ (ones 2))).outgoing ≠ [] ∧
      (wired false true true (outQ (ones 2))).linkState = .ready) ∧
    ((min (outQ (ones 2)).outgoing.length (outQ (ones 2)).params.phyMax : Nat) < (3 : Int) ∧
      (outQ (ones 2)).wiring.physical = true) := by decide +kernel
theorem witness_BrokenContractsAreRefused_linkPin :
    ((wired true true false (inQ wrongCrcWire)).AtBoundary ∧ (wired true true false (inQ wrongCrcWire)).wiring.upper = true ∧
      (wired true true false (inQ wrongCrcWire)).wiring.events = false ∧
      ∃ d ∈ framesIn (wired true true false (inQ wrongCrcWire)).incoming, ¬RightCrc d ∨ Deliverable d) ∧
    ((wired true false true (inQ (0x00 :: goodWire))).AtBoundary ∧
      ∃ d ∈ framesIn (wired true false true (inQ (0x00 :: goodWire))).incoming, Deliverable d) ∧
    (framesIn (wired true false false (inQ (reservedWire ++ goodWire))).incoming).find?
      (fun d => ¬RightCrc d ∨ Deliverable d) = some goodFrame := by decide
theorem witness_BrokenContractsAreRefused_symbols :
    ((wired true true false (bodyAt wrongCrcWire ⟨9, 9, 0x03, 0, wrongCrcFrame⟩)).Walking ⟨9, 9, 0x03, 0, wrongCrcFrame⟩ ∧
      readByte wrongCrcWire 9 = some 0 ∧ RightLength wrongCrcFrame ∧ ¬RightCrc wrongCrcFrame) ∧
    ((wired true false false (frameAt emptyFrame)).walk = some (.frame emptyFrame) ∧
      (wired true true false (frameAt emptyFrame)).walk = some (.frame emptyFrame) ∧
      emptyFrame.decoded.head? = some 0x01 ∧ (wired true false false (frameAt emptyFrame)).AtBoundary) := by decide

/-- The ends of the Link Layer's range and −32, the upper end of the physical one (R193). -/
theorem witness_ErrorOriginIsRecoverable :
    Config.LegalErrorNumerals (fun e => match e with
      | .invalidInput => 1
      | .outputTooSmall => 2
      | .incomplete => 3
      | .invalidParam => -64
      | .bufferFull => -33
      | .general => -50) ∧ (-32 : Int) ≤ -32 := by decide

/-! Wire symbols: each clause at an end of its range. -/

theorem witness_CodeByteBeginsARun_start :
    (inQ [0x02, 0x00]).AtBoundary ∧ (inQ [0x02, 0x00]).Walking (BodyRegs.start 1) ∧ (BodyRegs.start 1).left = 0 ∧
    (BodyRegs.start 1).p < (BodyRegs.start 1).d ∧ readByte (inQ [0x02, 0x00]).incoming (BodyRegs.start 1).p = some 0x02 ∧
    (BodyRegs.start 1).d < (BodyRegs.start 1).p + (0x02 : Byte).toNat := by decide
theorem witness_CodeByteBeginsARun_capacity :
    (bodyAt [0x03, 0x11, 0x11, 0x00] ⟨3, 0, 0, 0, ones 253⟩).Walking ⟨3, 0, 0, 0, ones 253⟩ ∧
    readByte [0x03, 0x11, 0x11, 0x00] 0 = some 0x03 ∧ 0 + (0x03 : Byte).toNat ≤ 3 ∧
    254 < (ones 253).length + ((0x03 : Byte).toNat - 1) := by decide +kernel
theorem witness_CodeByteBeginsARun_begins :
    (bodyAt [0x03, 0x11, 0x11, 0x00] ⟨3, 0, 0, 0, ones 252⟩).Walking ⟨3, 0, 0, 0, ones 252⟩ ∧
    readByte [0x03, 0x11, 0x11, 0x00] 0 = some 0x03 ∧ 0 + (0x03 : Byte).toNat ≤ 3 ∧
    (ones 252).length + ((0x03 : Byte).toNat - 1) ≤ 254 := by decide +kernel
theorem witness_CodeByteBeginsARun_noData :
    ((bodyAt [0x01, 0x00] ⟨1, 0, 0, 0, ones 254⟩).Walking ⟨1, 0, 0, 0, ones 254⟩ ∧
      readByte [0x01, 0x00] 0 = some 0x01 ∧ (ones 254).length ≤ 254 ∧ 0 + 1 = 1) ∧
    ((bodyAt [0x01, 0x01, 0x00] ⟨2, 0, 0, 0, ones 253⟩).Walking ⟨2, 0, 0, 0, ones 253⟩ ∧
      readByte [0x01, 0x01, 0x00] 0 = some 0x01 ∧ (ones 253).length ≤ 253 ∧ 0 + 1 ≠ 2) ∧
    ((bodyAt [0x01, 0x01, 0x00] ⟨2, 0, 0, 0, ones 254⟩).Walking ⟨2, 0, 0, 0, ones 254⟩ ∧ (ones 254).length = 254) := by
  decide +kernel
theorem witness_FullCodeByteBeginsAFullRun :
    ((inQ (0xFF :: ones 253 ++ [0x00])).Walking (BodyRegs.start 254) ∧
      readByte (inQ (0xFF :: ones 253 ++ [0x00])).incoming 0 = some 0xFF ∧ 254 < 0 + 255) ∧
    ((bodyAt (0xFF :: ones 254 ++ [0x00]) ⟨255, 0, 0, 0, ones 1⟩).Walking ⟨255, 0, 0, 0, ones 1⟩ ∧ ones 1 ≠ []) ∧
    ((inQ (0xFF :: ones 254 ++ [0x00])).Walking (BodyRegs.start 255) ∧
      readByte (inQ (0xFF :: ones 254 ++ [0x00])).incoming 0 = some 0xFF ∧ 0 + 255 ≤ 255) := by decide +kernel
theorem witness_DataByteIsCopied :
    (readByte (bodyAt [0x03, 0x11, 0x11, 0x00] ⟨3, 1, 0x03, 2, []⟩).incoming 1 = some 0x11 ∧
      (bodyAt [0x03, 0x11, 0x11, 0x00] ⟨3, 1, 0x03, 2, []⟩).AtBoundary) ∧
    (readByte (bodyAt [0x03, 0x11, 0x11, 0x00] ⟨3, 2, 0x03, 1, ones 1⟩).incoming 2 = some 0x11 ∧ 2 + 1 = 3) ∧
    (readByte (bodyAt [0x02, 0x11, 0x01, 0x00] ⟨3, 1, 0x02, 1, ones 252⟩).incoming 1 = some 0x11 ∧ 1 + 1 ≠ 3 ∧
      (ones 252).length + 2 ≤ 254) ∧
    (readByte (bodyAt [0x02, 0x11, 0x01, 0x00] ⟨3, 1, 0x02, 1, ones 253⟩).incoming 1 = some 0x11 ∧
      254 < (ones 253).length + 2) := by decide +kernel
theorem witness_DelimiterEndsTheBody :
    ((inQ [0x00]).Walking (BodyRegs.start 0) ∧ (BodyRegs.start 0).p = (BodyRegs.start 0).d ∧
      readByte (inQ [0x00]).incoming 0 = some 0 ∧ (BodyRegs.start 0).out.length < 4) ∧
    (readByte (bodyAt wrongLengthWire ⟨7, 7, 0x07, 0, [0x01, 0x05, 0xAA, 0xBB, 0x81, 0xFD]⟩).incoming 7 = some 0 ∧
      ¬RightLength [0x01, 0x05, 0xAA, 0xBB, 0x81, 0xFD]) ∧
    (readByte (bodyAt wrongCrcWire ⟨9, 9, 0x03, 0, wrongCrcFrame⟩).incoming 9 = some 0 ∧ RightLength wrongCrcFrame ∧
      ¬RightCrc wrongCrcFrame ∧ (bodyAt wrongCrcWire ⟨9, 9, 0x03, 0, wrongCrcFrame⟩).wiring.events = true) ∧
    (readByte (bodyAt goodWire ⟨9, 9, 0x03, 0, goodFrame⟩).incoming 9 = some 0 ∧ RightLength goodFrame ∧
      RightCrc goodFrame ∧ (bodyAt goodWire ⟨9, 9, 0x03, 0, goodFrame⟩).AtBoundary) := by decide
theorem witness_DataTypeDeliversTheFrame :
    (frameAt emptyFrame).AtBoundary ∧ (frameAt emptyFrame).wiring.upper = true ∧
    (frameAt emptyFrame).wiring.events = true ∧ (frameAt emptyFrame).walk = some (.frame emptyFrame) ∧
    emptyFrame.decoded.head? = some 0x01 := by decide
theorem witness_ReservedTypeEntersError :
    (frameAt { emptyFrame with decoded := [0x00, 0x00, 0x00, 0x00] }).walk =
      some (.frame { emptyFrame with decoded := [0x00, 0x00, 0x00, 0x00] }) ∧
    ([0x00, 0x00, 0x00, 0x00] : List Byte).head? = some 0x00 ∧ (0x00 : Byte) ≠ 0x01 ∧
    (frameAt { emptyFrame with decoded := [0x00, 0x00, 0x00, 0x00] }).AtBoundary := by decide
theorem witness_SymbolElsewhereWaitsOrIsRefused :
    ((inQ (ones 2)).walk = none ∧ ZeroFree (inQ (ones 2)).incoming ∧ (inQ (ones 2)).AtBoundary) ∧
    ((frameAt emptyFrame).walk = some (.frame emptyFrame) ∧ emptyFrame.decoded.head? ≠ some 0x02) ∧
    ((inQ [0x02, 0x11, 0x00]).Walking (BodyRegs.start 2) ∧
      readByte (inQ [0x02, 0x11, 0x00]).incoming (BodyRegs.start 2).p ≠ some 0xFF ∧ (BodyRegs.start 2).left = 0 ∧
      (BodyRegs.start 2).p ≠ (BodyRegs.start 2).d) := by decide
theorem witness_SymbolStepsRefineLinkPin :
    (inQ goodWire).AtBoundary ∧ (inQ goodWire).wiring.upper = true ∧ (inQ goodWire).wiring.events = true ∧
    (inQ goodWire).walk = none ∧ nextSymbol (inQ goodWire) = some (.cobsCodeRun 0x06) := by decide

end Sys2Proof.Tests
end

section
/-! The unassigned operation codes of R63: the dispatcher's arms for their rows, the step on a decoded word, and the
refusal of O8. -/

namespace Sys2Proof.Machine

/-- R63: the row of operation code 0x9 raises the shared refusal. -/
theorem exec_unassigned9 (s : State) : exec .unassigned9 s = .refused (.unassignedOpcode 0x9) := rfl

/-- R63: the row `101x` names the code that its bit spells out. -/
theorem exec_unassignedAB (x : BitVec 1) (s : State) :
    exec (.unassignedAB x) s = .refused (.unassignedOpcode (0b101#3 ++ x)) := rfl

/-- R63: the row `11xx` names the code that its two bits spell out. -/
theorem exec_unassignedCF (x : BitVec 2) (s : State) :
    exec (.unassignedCF x) s = .refused (.unassignedOpcode (0b11#2 ++ x)) := rfl

/-- R31: a step takes the word at the head of `pending` and runs the instruction it decodes to. -/
theorem step_of_decode {s : State} {w : TableWord} {rest : List TableWord} {i : Instr}
    (hpending : s.pending = w :: rest) (hdecode : decode w = .ok i) : step s = exec i s.popPending := by
  simp only [step, runPending, runWord, hpending, hdecode]

/-- R62: the operation codes above LINK.MAXPL's 0x8, one by one. -/
theorem op_cases_of_nine_le {op : BitVec 4} (h : 9 ≤ op.toNat) :
    op = 0x9 ∨ op = 0xA ∨ op = 0xB ∨ op = 0xC ∨ op = 0xD ∨ op = 0xE ∨ op = 0xF := by
  revert op
  decide

/-- R63: whatever operands follow it, an unassigned code decodes to its row, which names that very code when it
refuses. -/
theorem exists_decode_unassigned {op : BitVec 4} (operands : List Operand) (h : 9 ≤ op.toNat) :
    ∃ i, decode (.cmd op operands) = .ok i ∧ ∀ s, exec i s = .refused (.unassignedOpcode op) := by
  obtain rfl | rfl | rfl | rfl | rfl | rfl | rfl := op_cases_of_nine_le h
  · exact ⟨.unassigned9, rfl, exec_unassigned9⟩
  · exact ⟨.unassignedAB 0, rfl, exec_unassignedAB 0⟩
  · exact ⟨.unassignedAB 1, rfl, exec_unassignedAB 1⟩
  · exact ⟨.unassignedCF 0, rfl, exec_unassignedCF 0⟩
  · exact ⟨.unassignedCF 1, rfl, exec_unassignedCF 1⟩
  · exact ⟨.unassignedCF 2, rfl, exec_unassignedCF 2⟩
  · exact ⟨.unassignedCF 3, rfl, exec_unassignedCF 3⟩

/-- Settles O8: each unassigned row refuses by its arm, and a step on a command word of such a code runs its row. -/
theorem unassignedCodesAreRefused : Obligations.UnassignedCodesAreRefused := by
  refine ⟨exec_unassigned9, exec_unassignedAB 0, exec_unassignedAB 1, exec_unassignedCF, ?_⟩
  intro op operands s rest hop hpending
  obtain ⟨i, hdecode, hexec⟩ := exists_decode_unassigned operands hop
  calc step s = exec i s.popPending := step_of_decode hpending hdecode
    _ = .refused (.unassignedOpcode op) := hexec s.popPending

end Sys2Proof.Machine
end

section
/-! The CRC generator of R90 to R96: every entry of the table, the shift step as a linear map, the table update against
the bitwise one, and the residue. A byte stands in the 16-bit register by `BitVec.setWidth 16`. -/

namespace Sys2Proof.Machine

/-! ### The table, assembled from its pieces -/

theorem pieceRight_iff {piece : List U16} {start : Nat} :
    pieceRight piece start = true ↔
      ∀ k < piece.length, piece.getD k 0 = crcShift8 (BitVec.ofNat 16 (start + k) <<< 8) := by
  simp only [pieceRight, List.all_eq_true, List.mem_range, beq_iff_eq]

theorem pieceRight_append {p q : List U16} {start mid : Nat} (hp : pieceRight p start = true)
    (hq : pieceRight q mid = true) (hmid : start + p.length = mid) : pieceRight (p ++ q) start = true := by
  subst hmid
  rw [pieceRight_iff] at hp hq ⊢
  intro k hk
  by_cases hkp : k < p.length
  · rw [List.getD_eq_getElem?_getD, List.getElem?_append_left hkp, ← List.getD_eq_getElem?_getD, hp k hkp]
  · have hle : p.length ≤ k := Nat.le_of_not_lt hkp
    have hkq : k - p.length < q.length := by
      rw [List.length_append] at hk
      omega
    rw [List.getD_eq_getElem?_getD, List.getElem?_append_right hle, ← List.getD_eq_getElem?_getD, hq _ hkq,
      Nat.add_assoc, Nat.add_sub_cancel' hle]

theorem crcTable_right : pieceRight crcTable 0 = true := by
  have h6 := pieceRight_append crcTable6_right crcTable7_right rfl
  have h5 := pieceRight_append crcTable5_right h6 rfl
  have h4 := pieceRight_append crcTable4_right h5 rfl
  have h3 := pieceRight_append crcTable3_right h4 rfl
  have h2 := pieceRight_append crcTable2_right h3 rfl
  have h1 := pieceRight_append crcTable1_right h2 rfl
  simp only [crcTable, List.append_assoc]
  exact pieceRight_append crcTable0_right h1 rfl

/-- R92: the entry at a byte is that byte, at the top of the register, shifted eight times. -/
theorem crcTable_getD (b : Byte) : crcTable.getD b.toNat 0 = crcShift8 (b.setWidth 16 <<< 8) := by
  have h := pieceRight_iff.mp crcTable_right b.toNat (by rw [crcTable_length]; exact b.isLt)
  rwa [Nat.zero_add, BitVec.ofNat_toNat] at h

/-! ### The two bytes of the register -/

theorem getLsbD_loByte (k : U16) (i : Nat) : (loByte k).getLsbD i = (decide (i < 8) && k.getLsbD i) := by
  rw [loByte, BitVec.getLsbD_extractLsb', Nat.zero_add]

theorem getLsbD_hiByte (k : U16) (i : Nat) : (hiByte k).getLsbD i = (decide (i < 8) && k.getLsbD (8 + i)) := by
  rw [hiByte, BitVec.getLsbD_extractLsb']

theorem setWidth_hiByte (k : U16) : (hiByte k).setWidth 16 = k >>> 8 := by
  refine BitVec.eq_of_getLsbD_eq fun i hi => ?_
  simp only [BitVec.getLsbD_setWidth, BitVec.getLsbD_ushiftRight, getLsbD_hiByte, hi, decide_true, Bool.true_and]
  by_cases h : i < 8
  · simp only [h, decide_true, Bool.true_and]
  · have hge : 16 ≤ 8 + i := by omega
    simp only [h, decide_false, Bool.false_and, BitVec.getLsbD_of_ge k _ hge]

theorem setWidth_loByte_shiftLeft (k : U16) : (loByte k).setWidth 16 <<< 8 = k <<< 8 := by
  refine BitVec.eq_of_getLsbD_eq fun i hi => ?_
  have hlow : i - 8 < 8 := by omega
  have hlt : i - 8 < 16 := by omega
  simp only [BitVec.getLsbD_shiftLeft, BitVec.getLsbD_setWidth, getLsbD_loByte, hlow, hlt, decide_true, Bool.true_and]

theorem hiByte_shiftLeft (k : U16) : hiByte (k <<< 8) = loByte k := by
  refine BitVec.eq_of_getLsbD_eq fun i hi => ?_
  have htop : 8 + i < 16 := by omega
  have hnot : ¬8 + i < 8 := by omega
  simp only [getLsbD_hiByte, getLsbD_loByte, BitVec.getLsbD_shiftLeft, htop, hnot, decide_true, decide_false,
    Bool.not_false, Bool.true_and, Nat.add_sub_cancel_left]

theorem loByte_xor_hiByte (k : U16) : (loByte k).setWidth 16 ^^^ (hiByte k).setWidth 16 <<< 8 = k := by
  refine BitVec.eq_of_getLsbD_eq fun i hi => ?_
  have hlt : i - 8 < 16 := by omega
  simp only [BitVec.getLsbD_xor, BitVec.getLsbD_shiftLeft, BitVec.getLsbD_setWidth, getLsbD_loByte, getLsbD_hiByte,
    hi, hlt, decide_true, Bool.true_and]
  by_cases h : i < 8
  · simp only [h, decide_true, Bool.not_true, Bool.true_and, Bool.false_and, Bool.xor_false]
  · have hlow : i - 8 < 8 := by omega
    have hsum : 8 + (i - 8) = i := by omega
    simp only [h, hlow, hsum, decide_true, decide_false, Bool.not_false, Bool.true_and, Bool.false_and, Bool.false_xor]

/-! ### The shift step -/

/-- R91: the shift step is linear over xor; where both registers have bit 15 set the two polynomials cancel. -/
theorem crcShift_xor (a b : U16) : crcShift (a ^^^ b) = crcShift a ^^^ crcShift b := by
  unfold crcShift
  rw [BitVec.getLsbD_xor, BitVec.shiftLeft_xor_distrib]
  cases a.getLsbD 15 <;> cases b.getLsbD 15
  case false.false => rfl
  case false.true => exact BitVec.xor_assoc ..
  case true.false =>
    show a <<< 1 ^^^ b <<< 1 ^^^ Config.crcPoly = a <<< 1 ^^^ Config.crcPoly ^^^ b <<< 1
    ac_rfl
  case true.true =>
    calc a <<< 1 ^^^ b <<< 1
      _ = a <<< 1 ^^^ b <<< 1 ^^^ (Config.crcPoly ^^^ Config.crcPoly) := by rw [BitVec.xor_self, BitVec.xor_zero]
      _ = a <<< 1 ^^^ Config.crcPoly ^^^ (b <<< 1 ^^^ Config.crcPoly) := by ac_rfl

theorem crcShift8_xor (a b : U16) : crcShift8 (a ^^^ b) = crcShift8 a ^^^ crcShift8 b := by
  simp only [crcShift8, crcShift_xor]

/-- A byte at the bottom of the register does not reach bit 15 in its first seven shifts. -/
theorem crcShift_setWidth_shiftLeft (b : Byte) {k : Nat} (hk : k ≤ 7) :
    crcShift (b.setWidth 16 <<< k) = b.setWidth 16 <<< (k + 1) := by
  have hbit : (b.setWidth 16 <<< k).getLsbD 15 = false := by
    have hge : 8 ≤ 15 - k := by omega
    simp only [BitVec.getLsbD_shiftLeft, BitVec.getLsbD_setWidth, BitVec.getLsbD_of_ge b _ hge, Bool.and_false]
  rw [crcShift, hbit, BitVec.shiftLeft_add]
  rfl

theorem crcShift8_setWidth (b : Byte) : crcShift8 (b.setWidth 16) = b.setWidth 16 <<< 8 := by
  calc crcShift8 (b.setWidth 16)
    _ = crcShift8 (b.setWidth 16 <<< 0) := by rw [BitVec.shiftLeft_zero]
    _ = b.setWidth 16 <<< 8 := by
      simp (disch := decide) only [crcShift8, crcShift_setWidth_shiftLeft, Nat.reduceAdd]

/-! ### The update -/

/-- R92: the index of the update is the register's high byte xor the input byte. -/
theorem crcUpdate_eq (k : U16) (b : Byte) : crcUpdate k b = k <<< 8 ^^^ crcTable.getD (hiByte k ^^^ b).toNat 0 := by
  have hindex : (k >>> 8 ^^^ b.setWidth 16) = (hiByte k ^^^ b).setWidth 16 := by
    rw [BitVec.setWidth_xor, setWidth_hiByte]
  rw [crcUpdate, hindex, BitVec.toNat_setWidth_of_le (by decide)]

/-- R91, R92: one table update is the eight shift steps of the bitwise form. -/
theorem crcUpdate_eq_crcShift8 (k : U16) (b : Byte) : crcUpdate k b = crcShift8 (k ^^^ b.setWidth 16 <<< 8) := by
  have hsplit : k ^^^ b.setWidth 16 <<< 8 = (loByte k).setWidth 16 ^^^ (hiByte k ^^^ b).setWidth 16 <<< 8 := by
    calc k ^^^ b.setWidth 16 <<< 8
      _ = (loByte k).setWidth 16 ^^^ (hiByte k).setWidth 16 <<< 8 ^^^ b.setWidth 16 <<< 8 := by rw [loByte_xor_hiByte]
      _ = (loByte k).setWidth 16 ^^^ (hiByte k ^^^ b).setWidth 16 <<< 8 := by
        rw [BitVec.setWidth_xor, BitVec.shiftLeft_xor_distrib, BitVec.xor_assoc]
  rw [hsplit, crcShift8_xor, crcShift8_setWidth, setWidth_loByte_shiftLeft, crcUpdate_eq, crcTable_getD]

/-- The register's own high byte as input selects the zero entry: only the shift is left. -/
theorem crcUpdate_hiByte (k : U16) : crcUpdate k (hiByte k) = k <<< 8 := by
  rw [crcUpdate_eq, BitVec.xor_self, BitVec.toNat_zero, crcTable_zero]
  exact BitVec.xor_zero

/-- R96: each of the two bytes is the register's own high byte when it enters, and two shifts by 8 empty it. -/
theorem foldl_crcUpdate_hiByte_loByte (k : U16) : [hiByte k, loByte k].foldl crcUpdate k = 0 :=
  calc crcUpdate (crcUpdate k (hiByte k)) (loByte k)
    _ = crcUpdate (k <<< 8) (hiByte (k <<< 8)) := by rw [crcUpdate_hiByte, hiByte_shiftLeft]
    _ = k <<< (8 + 8) := by rw [crcUpdate_hiByte, BitVec.shiftLeft_add]
    _ = 0 := BitVec.shiftLeft_eq_zero (by decide)

/-- Settles O9: at a boundary the operation starts, and the fold of the table update is `crc16` by definition (R94). -/
theorem crcCalcAnswersTheChecksum : Obligations.CrcCalcAnswersTheChecksum := by
  intro x s hs
  calc exec (.crcCalc x) s
    _ = operation (returns (.crc (crc16 x))) s := rfl
    _ = .next (s.endWalk.pushResult (.crc (crc16 x))) := by
      rw [operation_of_atBoundary _ hs, returns_eq]
    _ = .next (s.answered (.crc (x.foldl crcUpdate 0xFFFF))) := by rw [pushResult_endWalk]; rfl

/-- Settles O10: both forms fold from the same register, and their updates agree byte by byte. -/
theorem crcTableFormEqualsBitwiseForm : Obligations.CrcTableFormEqualsBitwiseForm := by
  intro x
  have hupdate : crcUpdate = fun (k : U16) (b : Byte) => crcShift8 (k ^^^ b.setWidth 16 <<< 8) := by
    funext k b
    exact crcUpdate_eq_crcShift8 k b
  rw [crc16, crc16Bitwise, hupdate]

/-- Settles O11: each of the two bytes is the register's own high byte when it enters, so each update only shifts, and
two shifts empty the register. -/
theorem crcResidueIsZero : Obligations.CrcResidueIsZero := by
  intro x
  rw [crc16_append, foldl_crcUpdate_hiByte_loByte]

end Sys2Proof.Machine
end

section
/-! The decoder of R111 and R113 on a body, the bytes before the first delimiter: what follows the delimiter does not
matter, and a body is walked one run at a time (O17, O18). -/

namespace Sys2Proof.Machine

/-! ### The walk stays in the body -/

/-- R113: a run is read inside the body, whatever follows the body. -/
theorem decodeRun_append (b u : List Byte) (cap : Nat) {r : DecRegs} (hp : r.p < b.length) :
    decodeRun (b ++ u) b.length cap r = decodeRun b b.length cap r := by
  have hcode : (b ++ u).getD r.p 0 = b.getD r.p 0 := by
    simp only [List.getD_eq_getElem?_getD, List.getElem?_append_left hp]
  unfold decodeRun
  rw [hcode]
  generalize (b.getD r.p 0).toNat = c
  by_cases hover : r.p + c > b.length
  · simp only [hover, if_true]
  · have hdata : ((b ++ u).drop (r.p + 1)).take (c - 1) = (b.drop (r.p + 1)).take (c - 1) := by
      rw [List.drop_append_of_le_length hp, List.take_append_of_le_length (by rw [List.length_drop]; omega)]
    simp only [hdata]

theorem decodeRuns_append (b u : List Byte) (cap fuel : Nat) (r : DecRegs) :
    decodeRuns (b ++ u) b.length cap fuel r = decodeRuns b b.length cap fuel r := by
  induction fuel generalizing r with
  | zero => rfl
  | succ fuel ih =>
    by_cases hp : r.p < b.length
    · simp only [decodeRuns, decodeRun_append b u cap hp, ih]
    · simp only [decodeRuns, if_neg hp]

/-- The bytes that the decoder gives for a whole body (R113). -/
def decodeBody (b : List Byte) (cap : Nat) : Except ErrName (List Byte) :=
  decodeRuns b b.length cap b.length ⟨0, []⟩

@[simp] theorem decodeBody_nil (cap : Nat) : decodeBody [] cap = .ok [] := rfl

/-- R111: COBS.DEC decodes the body up to the first delimiter, and consumes the body and that delimiter. -/
theorem cobsDecode_eq_decodeBody {b : List Byte} (t : List Byte) (cap : Nat) (hb : ZeroFree b) :
    cobsDecode (b ++ 0 :: t) cap = (decodeBody b cap).map (fun out => (out, b.length + 1)) := by
  unfold cobsDecode
  rw [firstZero_append_of_zeroFree t hb]
  cases b with
  | nil => rfl
  | cons c b =>
    have hne : (c :: b).length ≠ 0 := Nat.succ_ne_zero _
    simp only [if_neg hne, decodeRuns_append]
    change _ = (decodeRuns (c :: b) (c :: b).length cap (c :: b).length ⟨0, []⟩).map _
    cases decodeRuns (c :: b) (c :: b).length cap (c :: b).length ⟨0, []⟩ <;> rfl

theorem cobsDecode_zero_cons (t : List Byte) (cap : Nat) : cobsDecode (0 :: t) cap = .ok ([], 1) := rfl

/-! ### The walk does not depend on what it has passed -/

/-- The registers after `r`'s walk when the walk begins behind `pre`, with `o` already decoded. -/
def DecRegs.after (pre o : List Byte) (r : DecRegs) : DecRegs := ⟨pre.length + r.p, o ++ r.out⟩

/-- R113: reading and capacity are relative to where the walk begins. -/
theorem decodeRun_after (pre o inp : List Byte) (d cap : Nat) (r : DecRegs) :
    decodeRun (pre ++ inp) (pre.length + d) (o.length + cap) (r.after pre o) =
      (decodeRun inp d cap r).map (DecRegs.after pre o) := by
  have hcode : (pre ++ inp).getD (pre.length + r.p) 0 = inp.getD r.p 0 := by
    simp only [List.getD_eq_getElem?_getD, List.getElem?_append_right (Nat.le_add_right _ _), Nat.add_sub_cancel_left]
  have hdrop : (pre ++ inp).drop (pre.length + (r.p + 1)) = inp.drop (r.p + 1) := by
    rw [← List.drop_drop, List.drop_left]
  simp only [decodeRun, DecRegs.after, hcode, Nat.add_assoc, hdrop, gt_iff_lt, Nat.add_lt_add_iff_left,
    List.length_append, List.append_assoc, ne_eq, Nat.add_left_cancel_iff]
  split
  · rfl
  split
  · rfl
  split
  · split <;> rfl
  · rfl

theorem decodeRuns_after (pre o inp : List Byte) (d cap fuel : Nat) (r : DecRegs) :
    decodeRuns (pre ++ inp) (pre.length + d) (o.length + cap) fuel (r.after pre o) =
      (decodeRuns inp d cap fuel r).map (o ++ ·) := by
  induction fuel generalizing r with
  | zero => rfl
  | succ fuel ih =>
    have hp : (r.after pre o).p < pre.length + d ↔ r.p < d := Nat.add_lt_add_iff_left
    simp only [decodeRuns, hp, decodeRun_after]
    split
    · cases decodeRun inp d cap r with
      | error e => rfl
      | ok r' => exact ih r'
    · rfl

/-- Every pass moves `p` past a nonzero code byte, so fuel beyond the rest of the body is not used. -/
theorem decodeRuns_fuel {b : List Byte} (hb : ZeroFree b) (cap : Nat) {fuel fuel' : Nat} {r : DecRegs}
    (h : b.length ≤ r.p + fuel) (h' : b.length ≤ r.p + fuel') :
    decodeRuns b b.length cap fuel r = decodeRuns b b.length cap fuel' r := by
  induction fuel generalizing fuel' r with
  | zero =>
    have hp : ¬r.p < b.length := by omega
    cases fuel' with
    | zero => rfl
    | succ fuel' => simp only [decodeRuns, if_neg hp]
  | succ fuel ih =>
    by_cases hp : r.p < b.length
    · cases fuel' with
      | zero => omega
      | succ fuel' =>
        simp only [decodeRuns, if_pos hp]
        cases hrun : decodeRun b b.length cap r with
        | error e => rfl
        | ok r' =>
          obtain ⟨hmove, -, -⟩ := decodeRun_ok hrun
          have hcode : 0 < (b.getD r.p 0).toNat := by
            rw [List.getD_eq_getElem?_getD, List.getElem?_eq_getElem hp, Option.getD_some]
            exact Nat.pos_of_ne_zero fun h0 => hb _ (List.getElem_mem hp) (BitVec.eq_of_toNat_eq h0)
          exact ih (by omega) (by omega)
    · cases fuel' <;> simp only [decodeRuns, if_neg hp]

/-- After a first part of the body that gave `o`, the walk decodes the rest with the capacity that is left. -/
theorem decodeRuns_rest {pre o rest : List Byte} {cap fuel : Nat} (hrest : ZeroFree rest) (ho : o.length ≤ cap)
    (hfuel : rest.length ≤ fuel) :
    decodeRuns (pre ++ rest) (pre ++ rest).length cap fuel ⟨pre.length, o⟩ =
      (decodeBody rest (cap - o.length)).map (o ++ ·) := by
  have hregs : (⟨pre.length, o⟩ : DecRegs) = DecRegs.after pre o ⟨0, []⟩ := by
    simp only [DecRegs.after, Nat.add_zero, List.append_nil]
  obtain ⟨left, rfl⟩ := Nat.exists_eq_add_of_le ho
  rw [hregs, List.length_append, decodeRuns_after, Nat.add_sub_cancel_left, decodeBody,
    decodeRuns_fuel hrest left (r := ⟨0, []⟩) (by omega) (by omega : _ ≤ 0 + rest.length)]

/-! ### One run of a body -/

/-- What a run of code `c` gives before `rest`: its data, and the implicit zero unless it is full or last (R113). -/
def runBytes (c : Byte) (data rest : List Byte) : List Byte := if c ≠ 0xFF ∧ rest ≠ [] then data ++ [0] else data

@[simp] theorem runBytes_last (c : Byte) (data : List Byte) : runBytes c data [] = data := if_neg fun h => h.2 rfl

@[simp] theorem runBytes_full (data rest : List Byte) : runBytes 0xFF data rest = data := if_neg fun h => h.1 rfl

theorem runBytes_zero {c : Byte} (data : List Byte) {rest : List Byte} (hc : c ≠ 0xFF) (hrest : rest ≠ []) :
    runBytes c data rest = data ++ [0] := if_pos ⟨hc, hrest⟩

theorem length_le_length_runBytes (c : Byte) (data rest : List Byte) : data.length ≤ (runBytes c data rest).length := by
  unfold runBytes
  split
  · rw [List.length_append]
    exact Nat.le_add_right _ _
  · exact Nat.le_refl _

/-- R113, R114: a run whose data is there either fits with its implicit zero, or is too large. -/
theorem decodeRun_first {c : Byte} {data : List Byte} (rest : List Byte) (cap : Nat) (hc : data.length + 1 = c.toNat) :
    decodeRun (c :: data ++ rest) (c :: data ++ rest).length cap ⟨0, []⟩ =
      if cap < (runBytes c data rest).length then .error .outputTooSmall
      else .ok ⟨(c :: data).length, runBytes c data rest⟩ := by
  have hlen : (c :: data ++ rest).length = c.toNat + rest.length := by
    rw [List.length_append, List.length_cons, hc]
  have hbytes : ((c :: data ++ rest).drop 1).take (c.toNat - 1) = data := by
    rw [← hc, Nat.add_sub_cancel]
    exact List.take_left
  have hgoesOn : (c.toNat ≠ 0xFF ∧ c.toNat ≠ c.toNat + rest.length) ↔ (c ≠ 0xFF ∧ rest ≠ []) := by
    have hfull : c.toNat ≠ 0xFF ↔ c ≠ 0xFF := not_congr (BitVec.toNat_inj (y := 0xFF))
    rw [hfull, ← List.length_pos_iff]
    exact and_congr_right fun _ => by omega
  have hhead : (c :: data ++ rest).getD 0 0 = c := rfl
  have hfits : ¬c.toNat > c.toNat + rest.length := by omega
  rw [hlen]
  simp only [decodeRun, hhead, Nat.zero_add, hbytes, hgoesOn, hfits, if_false, List.nil_append, List.length_nil]
  rw [← hc, Nat.add_sub_cancel]
  by_cases hzero : c ≠ 0xFF ∧ rest ≠ []
  · rw [if_pos hzero, runBytes_zero data hzero.1 hzero.2, List.length_append, List.length_singleton, List.length_cons]
    by_cases hcap : cap < data.length
    · rw [if_pos hcap, if_pos (Nat.lt_succ_of_lt hcap)]
    · rw [if_neg hcap]
  · rw [if_neg hzero, runBytes, if_neg hzero, List.length_cons]

/-- R113: a nonempty body is its first run, then the walk from the registers that run leaves. -/
theorem decodeBody_cons (c : Byte) (b : List Byte) (cap : Nat) :
    decodeBody (c :: b) cap =
      (decodeRun (c :: b) (c :: b).length cap ⟨0, []⟩).bind (decodeRuns (c :: b) (c :: b).length cap b.length) := by
  have hpos : 0 < (c :: b).length := Nat.succ_pos _
  change decodeRuns (c :: b) (c :: b).length cap (b.length + 1) ⟨0, []⟩ = _
  rw [decodeRuns, if_pos hpos]
  cases decodeRun (c :: b) (c :: b).length cap ⟨0, []⟩ <;> rfl

/-- R113: a body whose data is there for its first code byte decodes to that run's bytes and what the rest gives. -/
theorem decodeBody_run {c : Byte} {data rest : List Byte} (cap : Nat) (hc : data.length + 1 = c.toNat)
    (hrest : ZeroFree rest) :
    decodeBody (c :: data ++ rest) cap =
      if cap < (runBytes c data rest).length then .error .outputTooSmall
      else (decodeBody rest (cap - (runBytes c data rest).length)).map (runBytes c data rest ++ ·) := by
  rw [List.cons_append, decodeBody_cons, ← List.cons_append, decodeRun_first rest cap hc]
  by_cases hcap : cap < (runBytes c data rest).length
  · rw [if_pos hcap, if_pos hcap]
    rfl
  · rw [if_neg hcap, if_neg hcap]
    exact decodeRuns_rest hrest (Nat.le_of_not_lt hcap) (by rw [List.length_append]; omega)

/-- R113: a code byte that asks for more data than the body has is an overrun. -/
theorem decodeBody_overrun {c : Byte} {b : List Byte} (cap : Nat) (h : b.length + 1 < c.toNat) :
    decodeBody (c :: b) cap = .error .invalidInput := by
  have hover : 0 + c.toNat > (c :: b).length := by
    rw [List.length_cons]
    omega
  have hrun : decodeRun (c :: b) (c :: b).length cap ⟨0, []⟩ = .error .invalidInput := if_pos hover
  rw [decodeBody_cons, hrun]
  rfl

/-- R113 on a whole input: the first run's bytes, then what decoding the rest gives. -/
theorem cobsDecode_run {c : Byte} {data rest : List Byte} (cap : Nat) (t : List Byte) (hc : data.length + 1 = c.toNat)
    (hdata : ZeroFree data) (hrest : ZeroFree rest) :
    cobsDecode (c :: data ++ rest ++ 0 :: t) cap =
      if cap < (runBytes c data rest).length then .error .outputTooSmall
      else (cobsDecode (rest ++ 0 :: t) (cap - (runBytes c data rest).length)).map
        (fun o => (runBytes c data rest ++ o.1, c.toNat + o.2)) := by
  have hc0 : c ≠ 0 := fun h => by
    rw [h] at hc
    cases hc
  have hbody : ZeroFree (c :: data ++ rest) := zeroFree_append.2 ⟨zeroFree_cons.2 ⟨hc0, hdata⟩, hrest⟩
  rw [cobsDecode_eq_decodeBody t cap hbody, decodeBody_run cap hc hrest, cobsDecode_eq_decodeBody t _ hrest]
  by_cases hcap : cap < (runBytes c data rest).length
  · simp only [if_pos hcap, Except.map]
  · have hlen : (c :: data ++ rest).length + 1 = c.toNat + (rest.length + 1) := by
      rw [List.length_append, List.length_cons, hc, Nat.add_assoc]
    simp only [if_neg hcap, hlen]
    cases decodeBody rest (cap - (runBytes c data rest).length) <;> rfl

theorem cobsDecode_overrun {c : Byte} {b : List Byte} (cap : Nat) (t : List Byte) (hc : c ≠ 0) (hb : ZeroFree b)
    (h : b.length + 1 < c.toNat) : cobsDecode (c :: b ++ 0 :: t) cap = .error .invalidInput := by
  rw [cobsDecode_eq_decodeBody t cap (zeroFree_cons.2 ⟨hc, hb⟩), decodeBody_overrun cap h]
  rfl

/-! ### The obligations -/

/-- Settles O17: what a body decodes to does not mention what follows its delimiter. -/
theorem decoderIgnoresWhatFollowsTheDelimiter : Obligations.DecoderIgnoresWhatFollowsTheDelimiter := by
  intro b t cap hb
  rw [cobsDecode_eq_decodeBody t cap hb, cobsDecode_eq_decodeBody [] cap hb]

/-- Settles O18: the clauses are the overrun and the cases of the first run's bytes and of the capacity. -/
theorem decoderWalksRunByRun : Obligations.DecoderWalksRunByRun := by
  intro c cap t hc
  refine ⟨fun b hb h => cobsDecode_overrun cap t hc hb h, fun data rest hdata hrest hlen => ?_⟩
  rw [cobsDecode_run cap t hlen hdata hrest]
  refine ⟨fun hcap => ?_, ?_, ?_, ?_, ?_⟩
  · rw [if_pos (Nat.lt_of_lt_of_le hcap (length_le_length_runBytes c data rest))]
  · rintro hcap rfl
    rw [runBytes_last, if_neg (Nat.not_lt.2 hcap), List.nil_append, cobsDecode_zero_cons]
    simp only [Except.map, List.append_nil]
  · rintro hcap - rfl
    rw [runBytes_full, if_neg (Nat.not_lt.2 hcap)]
  · intro hcap hgo hfull
    rw [runBytes_zero data hfull hgo, if_pos (by rw [List.length_append, List.length_singleton]; omega)]
  · intro hcap hgo hfull
    rw [runBytes_zero data hfull hgo, List.length_append, List.length_singleton, if_neg (by omega), Nat.sub_sub]
    simp only [List.append_assoc, List.singleton_append]

end Sys2Proof.Machine
end

section
/-! The encoder of R103 run by run, and the decoder after it: no byte 0x00 (O13), the length (O14), and the round trip
of R118 (O15). -/

namespace Sys2Proof.Machine

/-! ### The encoder does not depend on what it has written -/

/-- The registers of `r` when `done` is already written before them. -/
def EncRegs.after (done : List Byte) (r : EncRegs) : EncRegs := ⟨done ++ r.out, done.length + r.codeIndex, r.code⟩

theorem encClose_after (done : List Byte) (r : EncRegs) : encClose (r.after done) = done ++ encClose r := by
  rw [encClose, EncRegs.after, List.set_append_right _ _ (Nat.le_add_right _ _), Nat.add_sub_cancel_left]
  rfl

theorem encReserve_after (done : List Byte) (r : EncRegs) : encReserve (r.after done) = (encReserve r).after done := by
  rw [encReserve, encClose_after, encReserve, EncRegs.after, EncRegs.after, List.length_append, List.append_assoc]

theorem encStep_after (done : List Byte) (r : EncRegs) (b : Byte) :
    encStep (r.after done) b = (encStep r b).after done := by
  have hdata : (⟨(r.after done).out ++ [b], (r.after done).codeIndex, (r.after done).code + 1⟩ : EncRegs) =
      EncRegs.after done ⟨r.out ++ [b], r.codeIndex, r.code + 1⟩ := by
    simp only [EncRegs.after, List.append_assoc]
  unfold encStep
  rw [hdata, encReserve_after, encReserve_after]
  split
  · rfl
  · exact (apply_ite _ _ _ _).symm

theorem encFold_after (done : List Byte) (x : List Byte) (r : EncRegs) :
    x.foldl encStep (r.after done) = (x.foldl encStep r).after done := by
  induction x generalizing r with
  | nil => rfl
  | cons b x ih => rw [List.foldl_cons, List.foldl_cons, encStep_after, ih]

/-! ### The encoding, run by run -/

/-- Nonzero bytes that do not fill a run extend the run under way (R103). -/
theorem encFold_data {x run : List Byte} (hx : ZeroFree x) (hlen : run.length + x.length ≤ 253) :
    x.foldl encStep ⟨0 :: run, 0, run.length + 1⟩ = ⟨0 :: (run ++ x), 0, (run ++ x).length + 1⟩ := by
  induction x generalizing run with
  | nil => rw [List.append_nil, List.foldl_nil]
  | cons b x ih =>
    obtain ⟨hb, hx⟩ := zeroFree_cons.1 hx
    have hlenb : (run ++ [b]).length = run.length + 1 := List.length_append
    rw [List.length_cons] at hlen
    have hstep : encStep ⟨0 :: run, 0, run.length + 1⟩ b = ⟨0 :: (run ++ [b]), 0, (run ++ [b]).length + 1⟩ := by
      rw [hlenb]
      exact encStep_data hb [] run 0 (by omega)
    rw [List.foldl_cons, hstep, ih hx (by omega), List.append_assoc, List.singleton_append]

theorem encFold_run {run : List Byte} (hrun : ZeroFree run) (hlen : run.length ≤ 253) :
    run.foldl encStep encInit = ⟨0 :: run, 0, run.length + 1⟩ :=
  encFold_data (run := []) hrun (by rwa [List.length_nil, Nat.zero_add])

theorem cobsEncodeBody_last {run : List Byte} (hrun : ZeroFree run) (hlen : run.length ≤ 253) :
    cobsEncodeBody run = BitVec.ofNat 8 (run.length + 1) :: run := by
  rw [cobsEncodeBody, encFold_run hrun hlen]
  rfl

theorem cobsEncodeBody_zero {run : List Byte} (x : List Byte) (hrun : ZeroFree run) (hlen : run.length ≤ 253) :
    cobsEncodeBody (run ++ 0 :: x) = BitVec.ofNat 8 (run.length + 1) :: run ++ cobsEncodeBody x := by
  have hstep : encStep ⟨0 :: run, 0, run.length + 1⟩ 0 = encInit.after (BitVec.ofNat 8 (run.length + 1) :: run) :=
    encStep_zero [] run 0 (run.length + 1)
  rw [cobsEncodeBody, List.foldl_append, encFold_run hrun hlen, List.foldl_cons, hstep, encFold_after, encClose_after]
  rfl

theorem cobsEncodeBody_full {run : List Byte} (x : List Byte) (hrun : ZeroFree run) (hlen : run.length = 254) :
    cobsEncodeBody (run ++ x) = 0xFF :: run ++ cobsEncodeBody x := by
  have hne : run ≠ [] := List.ne_nil_of_length_eq_add_one hlen
  obtain ⟨init, b, rfl⟩ : ∃ init b, run = init ++ [b] := ⟨_, _, (List.dropLast_concat_getLast hne).symm⟩
  rw [zeroFree_append, zeroFree_cons] at hrun
  obtain ⟨hinit, hb, -⟩ := hrun
  rw [List.length_append, List.length_singleton] at hlen
  have hstep : encStep ⟨0 :: init, 0, init.length + 1⟩ b = encInit.after (0xFF :: (init ++ [b])) :=
    encStep_full hb [] init 0 (by omega)
  rw [cobsEncodeBody, List.append_assoc, List.foldl_append, encFold_run hinit (by omega), List.singleton_append,
    List.foldl_cons, hstep, encFold_after, encClose_after]
  rfl

/-- Induction over the runs of an input: a last run that is not full, a run that a zero ends, a full run (R103). -/
theorem runs_induction {motive : List Byte → Prop}
    (last : ∀ run, ZeroFree run → run.length ≤ 253 → motive run)
    (zero : ∀ run x, ZeroFree run → run.length ≤ 253 → motive x → motive (run ++ 0 :: x))
    (full : ∀ run x, ZeroFree run → run.length = 254 → motive x → motive (run ++ x)) (x : List Byte) : motive x := by
  suffices hext : ∀ run, ZeroFree run → run.length ≤ 253 → motive (run ++ x) from hext [] zeroFree_nil (Nat.zero_le _)
  induction x with
  | nil =>
    intro run hrun hlen
    rw [List.append_nil]
    exact last run hrun hlen
  | cons b x ih =>
    intro run hrun hlen
    have hx : motive x := ih [] zeroFree_nil (Nat.zero_le _)
    by_cases hb : b = 0
    · rw [hb]
      exact zero run x hrun hlen hx
    · have hrunb : ZeroFree (run ++ [b]) := zeroFree_append.2 ⟨hrun, zeroFree_cons.2 ⟨hb, zeroFree_nil⟩⟩
      have hlenb : (run ++ [b]).length = run.length + 1 := List.length_append
      rw [← List.singleton_append, ← List.append_assoc]
      by_cases hfull : run.length = 253
      · exact full (run ++ [b]) x hrunb (by omega) hx
      · exact ih (run ++ [b]) hrunb (by omega)

/-- The code byte of a run that is not full: one more than the run's length (R103). -/
theorem toNat_runCode {n : Nat} (h : n ≤ 253) : (BitVec.ofNat 8 (n + 1)).toNat = n + 1 := by
  rw [BitVec.toNat_ofNat]
  omega

theorem runCode_ne_zero {n : Nat} (h : n ≤ 253) : BitVec.ofNat 8 (n + 1) ≠ 0 := fun h0 => by
  have hn : (0 : Byte).toNat = n + 1 := h0 ▸ toNat_runCode h
  cases hn

theorem runCode_ne_full {n : Nat} (h : n ≤ 253) : BitVec.ofNat 8 (n + 1) ≠ 0xFF := fun hf => by
  have hn : (0xFF : Byte).toNat = n + 1 := hf ▸ toNat_runCode h
  change 255 = n + 1 at hn
  omega

theorem cobsEncodeBody_ne_nil (x : List Byte) : cobsEncodeBody x ≠ [] := by
  induction x using runs_induction with
  | last run hrun hlen => rw [cobsEncodeBody_last hrun hlen]; exact List.cons_ne_nil _ _
  | zero run x hrun hlen => rw [cobsEncodeBody_zero x hrun hlen]; exact List.cons_ne_nil _ _
  | full run x hrun hlen => rw [cobsEncodeBody_full x hrun hlen]; exact List.cons_ne_nil _ _

/-- R106: every code byte and every data byte of the encoding is nonzero. -/
theorem zeroFree_cobsEncodeBody (x : List Byte) : ZeroFree (cobsEncodeBody x) := by
  obtain ⟨done, run, hdone, hrun, hlen, hfold⟩ := encFold_shape x zeroFree_nil zeroFree_nil (Nat.zero_le _)
  have hbody : cobsEncodeBody x = done ++ BitVec.ofNat 8 (run.length + 1) :: run := by
    rw [← encClose_run done run 0, ← hfold]
    rfl
  rw [hbody]
  exact zeroFree_append.2 ⟨hdone, zeroFree_cons.2 ⟨runCode_ne_zero hlen, hrun⟩⟩

/-- R104: one byte more than the input, while no full run is in it. -/
theorem length_cobsEncodeBody {x : List Byte} (hlen : x.length ≤ 254) (hx : ¬(x.length = 254 ∧ ZeroFree x)) :
    (cobsEncodeBody x).length = x.length + 1 := by
  induction x using runs_induction with
  | last run hrun hle => rw [cobsEncodeBody_last hrun hle, List.length_cons]
  | zero run x hrun hle ih =>
    rw [List.length_append, List.length_cons] at hlen
    have hrest : (cobsEncodeBody x).length = x.length + 1 := ih (by omega) fun h => by omega
    rw [cobsEncodeBody_zero x hrun hle, List.length_append, List.length_append, List.length_cons,
      List.length_cons, hrest]
    omega
  | full run x hrun h254 =>
    rw [List.length_append] at hlen
    obtain rfl : x = [] := List.length_eq_zero_iff.1 (by omega)
    rw [List.append_nil] at hx
    exact absurd ⟨h254, hrun⟩ hx

/-- R118 on bodies: decoding the encoding gives the input back, with room for no more than the input. -/
theorem decodeBody_cobsEncodeBody (x : List Byte) {cap : Nat} (h : x.length ≤ cap) :
    decodeBody (cobsEncodeBody x) cap = .ok x := by
  induction x using runs_induction generalizing cap with
  | last run hrun hlen =>
    have hcode := (toNat_runCode hlen).symm
    rw [cobsEncodeBody_last hrun hlen, ← List.append_nil (_ :: run), decodeBody_run cap hcode zeroFree_nil,
      runBytes_last, if_neg (Nat.not_lt.2 h), decodeBody_nil, Except.map, List.append_nil]
  | zero run x hrun hlen ih =>
    have hcode := (toNat_runCode hlen).symm
    rw [← List.singleton_append, ← List.append_assoc, List.length_append] at h
    rw [cobsEncodeBody_zero x hrun hlen, decodeBody_run cap hcode (zeroFree_cobsEncodeBody x),
      runBytes_zero run (runCode_ne_full hlen) (cobsEncodeBody_ne_nil x), if_neg (by omega), ih (by omega), Except.map,
      List.append_assoc, List.singleton_append]
  | full run x hrun hlen ih =>
    have hcode : run.length + 1 = (0xFF : Byte).toNat := by rw [hlen]; rfl
    rw [List.length_append] at h
    rw [cobsEncodeBody_full x hrun hlen, decodeBody_run cap hcode (zeroFree_cobsEncodeBody x), runBytes_full,
      if_neg (by omega), ih (by omega), Except.map]

/-! ### The operations -/

/-- R101, R102: when the encoder answers with bytes, and with which. -/
theorem cobsEncode_eq_ok_iff {x : List Byte} {cap : Nat} {e : List Byte} :
    cobsEncode x cap = .ok e ↔
      x.length ≤ 254 ∧ encBound x.length ≤ cap ∧ e = if x = [] then [] else cobsEncodeBody x := by
  unfold cobsEncode
  by_cases hlong : x.length > 254
  · simp only [hlong, if_true, Nat.not_le.2 hlong, false_and, reduceCtorEq]
  · by_cases hsmall : cap < encBound x.length
    · simp only [hlong, hsmall, if_true, if_false, Nat.not_le.2 hsmall, false_and, and_false, reduceCtorEq]
    · rw [if_neg hlong, if_neg hsmall, ← apply_ite Except.ok]
      exact ⟨fun h => ⟨Nat.not_lt.1 hlong, Nat.not_lt.1 hsmall, (Except.ok.inj h).symm⟩, fun ⟨_, _, he⟩ => he ▸ rfl⟩

/-- COBS.ENC completes with the bytes that the encoder answers (R101). -/
theorem exec_cobsEnc_of_ok {s : State} {x : List Byte} {cap : Nat} {e : List Byte} (hs : s.AtBoundary)
    (h : cobsEncode x cap = .ok e) : exec (.cobsEnc (some x) cap) s = .next (s.answered (.encoded e)) := by
  obtain ⟨-, hcap, -⟩ := cobsEncode_eq_ok_iff.1 h
  have hroom : ¬(x = [] ∧ cap = 0) := fun ⟨_, h0⟩ => by
    exact absurd hcap (by rw [h0]; exact Nat.not_succ_le_zero _)
  have harm : exec (.cobsEnc (some x) cap) s = execCobsEnc (some x) cap s := rfl
  rw [harm, execCobsEnc, operation_of_atBoundary _ hs]
  simp only [if_neg hroom, h, returns_eq, pushResult_endWalk]

/-- COBS.DEC completes with what the decoder answers (R111). -/
theorem exec_cobsDec_of_ok {s : State} {x : List Byte} {cap : Nat} {out : List Byte} {n : Nat} (hs : s.AtBoundary)
    (h : cobsDecode x cap = .ok (out, n)) : exec (.cobsDec (some x) cap) s = .next (s.answered (.decoded out n)) := by
  have harm : exec (.cobsDec (some x) cap) s = execCobsDec (some x) cap s := rfl
  rw [harm, execCobsDec, operation_of_atBoundary _ hs]
  simp only [h, returns_eq, pushResult_endWalk]

/-! ### The obligations -/

/-- Settles O13: the answer is empty, or the encoded body, which has no zero. -/
theorem encodedBytesContainNoZero : Obligations.EncodedBytesContainNoZero := by
  intro x cap e h
  obtain ⟨-, -, rfl⟩ := cobsEncode_eq_ok_iff.1 h
  split
  · exact zeroFree_nil
  · exact zeroFree_cobsEncodeBody x

/-- Settles O14: 254 bytes without a zero are one full run and the code byte of the empty run after it. -/
theorem encodedLengthIsOneMore : Obligations.EncodedLengthIsOneMore := by
  refine fun x _ hlen => ⟨fun ⟨h254, hx⟩ => ?_, length_cobsEncodeBody hlen⟩
  have hbody : cobsEncodeBody x = 0xFF :: x ++ cobsEncodeBody [] := by
    rw [← cobsEncodeBody_full [] hx h254, List.append_nil]
  rw [hbody, List.length_append, List.length_cons, h254]
  rfl

/-- Settles O15: COBS.DEC sees the encoding as its body, and that body decodes to the input. -/
theorem codecRoundTrip : Obligations.CodecRoundTrip := by
  intro s x t cap cap2 hs hlen hcap hcap2
  refine ⟨if x = [] then [] else cobsEncodeBody x, exec_cobsEnc_of_ok hs (cobsEncode_eq_ok_iff.2 ⟨hlen, hcap, rfl⟩),
    exec_cobsDec_of_ok hs ?_⟩
  rw [List.append_assoc, List.singleton_append]
  by_cases hx : x = []
  · rw [if_pos hx, hx]
    exact cobsDecode_zero_cons t cap2
  · rw [if_neg hx, cobsDecode_eq_decodeBody t cap2 (zeroFree_cobsEncodeBody x), decodeBody_cobsEncodeBody x hcap2]
    rfl

end Sys2Proof.Machine
end

section
/-! The frame that LINK.SEND builds, field by field (O21). -/

namespace Sys2Proof.Machine

/-- R123: two header bytes, the payload, and the checksum of what stands before it, low byte first. -/
theorem linkFrame_eq (p : List Byte) :
    linkFrame p = 0x01 :: BitVec.ofNat 8 p.length :: p ++ leBytes (crc16 (0x01 :: BitVec.ofNat 8 p.length :: p)) := rfl

theorem linkFrame_length_le {p : List Byte} (hp : p.length ≤ 250) : (linkFrame p).length ≤ 254 :=
  (linkFrame_length p).symm ▸ Nat.add_le_add_right hp 4

/-- Settles O21: the fields are the definition's, `leBytes` spelled out by bit ranges; the bound is the payload's. -/
theorem frameIsTypeLengthPayloadCrc : Obligations.FrameIsTypeLengthPayloadCrc := by
  refine fun p hp => ⟨?_, linkFrame_length p, linkFrame_length_le hp⟩
  rw [linkFrame_eq, leBytes, loByte, hiByte]

end Sys2Proof.Machine
end

section
/-! Passes of LINK.PIN that deliver nothing (R152, R153, R155): each leaves LINK.PIN still to run on what the pass left
(O31 to O33). -/

namespace Sys2Proof.Machine

/-! ### One pass -/

/-- Step 3 on a decode failure (R152). -/
theorem headVerdict_of_error {q : List Byte} {e : ErrName} (h : cobsDecode q 254 = .error e) (he : e ≠ .incomplete) :
    headVerdict q = some .skip := by
  unfold headVerdict
  split
  next h' => exact absurd (Except.error.inj (h.symm.trans h')) he
  next => rfl
  next h' => cases h.symm.trans h'

theorem headVerdict_of_ok {q decoded : List Byte} {n : Nat} (h : cobsDecode q 254 = .ok (decoded, n)) :
    headVerdict q = some (parseFrame decoded n) := by
  simp only [headVerdict, show cobsDecode q Config.linkMaxFrameSize = .ok (decoded, n) from h]

/-- The pass of a CRC mismatch makes one transaction, an event (R155): the upper layer need not be attached. -/
theorem applyVerdict_crcMismatch {s : State} (n : Nat) (he : s.wiring.events = true) :
    applyVerdict (.crcMismatch n) s = .next ((Verdict.crcMismatch n).after s) := by
  simp only [applyVerdict, emit_of_attached (s := s.enterError) .crcError he, andThen_next]
  rfl

/-- LINK.PIN's arm of the dispatcher. -/
theorem exec_linkPin (s : State) : exec .linkPin s = execLinkPin s := rfl

/-- LINK.PIN after one pass is LINK.PIN from the state the pass leaves. In SENDING it starts from neither (R178). -/
theorem exec_linkPin_pass {s t : State} {v : Verdict} (hst : s.AtBoundary ↔ t.AtBoundary)
    (hv : headVerdict s.incoming = some v) (ha : applyVerdict v s.endWalk = .next t.endWalk) :
    exec .linkPin s = exec .linkPin t := by
  rw [exec_linkPin, exec_linkPin]
  by_cases hs : s.AtBoundary
  · have hpass : pinAll s.endWalk = pinAll t.endWalk := by
      rw [pinAll_pass (s := s.endWalk) hv, ha, andThen_next]
    rw [execLinkPin_eq hs, execLinkPin_eq (hst.1 hs), hpass]
  · have ht : ¬t.AtBoundary := fun ht => hs (hst.2 ht)
    exact (operation_of_sending _ (Decidable.not_not.1 hs)).trans (operation_of_sending _ (Decidable.not_not.1 ht)).symm

/-! ### The obligations -/

/-- Settles O31: each of the three heads has the verdict `skip`, whose pass removes one byte. -/
theorem pinSkipsOneByte : Obligations.PinSkipsOneByte := by
  intro s h
  have hv : headVerdict s.incoming = some .skip := by
    obtain he | he | ⟨decoded, n, hd, hshort⟩ := h
    · exact headVerdict_of_error he (by decide)
    · exact headVerdict_of_error he (by decide)
    · rw [headVerdict_of_ok hd, parseFrame_short n hshort]
  exact exec_linkPin_pass Iff.rfl hv rfl

/-- Settles O32: the verdict is `dropFrame`, whose pass removes the consumed bytes. -/
theorem pinDropsAWrongLength : Obligations.PinDropsAWrongLength := by
  intro s decoded n hd h4 hwrong
  have hlen : ¬RightLength decoded := fun ⟨_, hmax, heq⟩ => hwrong.elim (Nat.not_lt.2 hmax) (absurd heq)
  have hv : headVerdict s.incoming = some (.dropFrame n) := by
    rw [headVerdict_of_ok hd, parseFrame_wrongLength n (Nat.not_lt.2 h4) hlen]
  exact exec_linkPin_pass Iff.rfl hv rfl

/-- Settles O33: the verdict is `crcMismatch`, whose pass enters ERROR, a state in which LINK.PIN starts again. -/
theorem pinReportsACrcMismatch : Obligations.PinReportsACrcMismatch := by
  intro s decoded n hs he hd hlen hcrc
  have hv : headVerdict s.incoming = some (.crcMismatch n) := by
    rw [headVerdict_of_ok hd, parseFrame_wrongCrc n hlen hcrc]
  exact exec_linkPin_pass (iff_of_true hs nofun) hv (applyVerdict_crcMismatch n he)

end Sys2Proof.Machine
end

section
/-! LINK.PIN as a whole (R150 to R160): its passes either all have their receivers, and then the engine ends in one
state that the examined frames describe, or the first transaction without a receiver refuses the operation (R224). -/

namespace Sys2Proof.Machine

/-! ### What stays in the queue -/

/-- The bytes after the last delimiter, which LINK.PIN leaves for later (R151). -/
def afterLastZero : List Byte → List Byte
  | [] => []
  | b :: q => if 0 ∈ b :: q then afterLastZero q else b :: q

theorem afterLastZero_of_zeroFree {q : List Byte} (h : ZeroFree q) : afterLastZero q = q := by
  cases q with
  | nil => rfl
  | cons b q => exact if_neg fun h0 => h 0 h0 rfl

/-- What stands before a delimiter does not stay. -/
theorem afterLastZero_append_zero (b q : List Byte) : afterLastZero (b ++ 0 :: q) = afterLastZero q := by
  induction b with
  | nil => exact if_pos List.mem_cons_self
  | cons c b ih =>
    have hmem : (0 : Byte) ∈ c :: (b ++ 0 :: q) := List.mem_cons_of_mem c List.mem_append_cons_self
    rw [List.cons_append, afterLastZero, if_pos hmem, ih]

/-- What stays is the queue without a head that is empty or ends in a delimiter, and holds no delimiter. -/
theorem exists_append_afterLastZero (q : List Byte) :
    ∃ gone, q = gone ++ afterLastZero q ∧ ZeroFree (afterLastZero q) ∧ (gone = [] ∨ gone.getLast? = some 0) := by
  induction q with
  | nil => exact ⟨[], rfl, zeroFree_nil, .inl rfl⟩
  | cons b q ih =>
    obtain ⟨gone, hq, hfree, hlast⟩ := ih
    by_cases hmem : (0 : Byte) ∈ b :: q
    · rw [afterLastZero, if_pos hmem]
      refine ⟨b :: gone, by rw [List.cons_append, ← hq], hfree, .inr ?_⟩
      obtain rfl | hlast := hlast
      · have hb : b = 0 := by
          obtain h0 | h0 := List.mem_cons.1 hmem
          · exact h0.symm
          · rw [hq] at h0
            exact absurd rfl (hfree 0 h0)
        rw [hb, List.getLast?_singleton]
      · cases gone with
        | nil => cases hlast
        | cons c gone => rw [List.getLast?_cons_cons, hlast]
    · rw [afterLastZero, if_neg hmem]
      exact ⟨[], rfl, fun c hc hc0 => hmem (hc0 ▸ hc), .inl rfl⟩

theorem length_afterLastZero_le (q : List Byte) : (afterLastZero q).length ≤ q.length := by
  obtain ⟨gone, hq, -, -⟩ := exists_append_afterLastZero q
  have hlen := congrArg List.length hq
  rw [List.length_append] at hlen
  omega

/-- A pass removes nothing after the first delimiter, so it removes nothing of what stays (R159). -/
theorem afterLastZero_drop {q : List Byte} {d k : Nat} (hd : firstZero q = some d) (hk : k ≤ d + 1) :
    afterLastZero (q.drop k) = afterLastZero q := by
  obtain ⟨b, t, rfl, -, rfl⟩ := exists_of_firstZero hd
  rw [afterLastZero_append_zero]
  by_cases hkb : k ≤ b.length
  · rw [List.drop_append_of_le_length hkb, afterLastZero_append_zero]
  · obtain rfl : k = b.length + 1 := by omega
    rw [← List.drop_drop, List.drop_left, List.drop_one, List.tail_cons]

/-! ### Transactions and their receivers -/

/-- Why a transaction is refused: its receiver is not attached (R224, U11; log 9). A result goes to the host. -/
def Wiring.refusal (w : Wiring) : Output → Option Refusal
  | .result _ => none
  | .event _ => if w.events then none else some .noEventManager
  | .delivery _ => if w.upper then none else some .noUpperLayer
  | .phyCall _ => if w.physical then none else some .noPhysicalLayer

/-- The next state `t` of an operation whose transactions are `l`, or the refusal of the first without a receiver. -/
def Wiring.attempt (w : Wiring) (l : List Output) (t : State) : Outcome :=
  match l.findSome? w.refusal with
  | none => .next t
  | some r => .refused r

theorem Wiring.attempt_of_none {w : Wiring} {l : List Output} (t : State) (h : l.findSome? w.refusal = none) :
    w.attempt l t = .next t := by
  rw [Wiring.attempt, h]

theorem Wiring.attempt_of_some {w : Wiring} {l : List Output} {r : Refusal} (t : State)
    (h : l.findSome? w.refusal = some r) : w.attempt l t = .refused r := by
  rw [Wiring.attempt, h]

theorem Wiring.eq_of_attempt_eq_next {w : Wiring} {l : List Output} {t u : State} (h : w.attempt l t = .next u) :
    u = t := by
  cases hl : l.findSome? w.refusal with
  | none => rw [attempt_of_none t hl] at h; cases h; rfl
  | some r => rw [attempt_of_some t hl] at h; cases h

/-- Transactions in a row: the first list is made, then the second. -/
theorem Wiring.attempt_append (w : Wiring) (l m : List Output) (t u : State) :
    w.attempt (l ++ m) t = andThen (w.attempt l u) fun _ => w.attempt m t := by
  cases hl : l.findSome? w.refusal with
  | none => simp only [attempt, List.findSome?_append, hl, Option.none_or, andThen_next]
  | some r => simp only [attempt, List.findSome?_append, hl, Option.some_or, andThen_refused]

/-- A result needs no receiver. -/
theorem Wiring.attempt_andThen_returns (w : Wiring) (l : List Output) (t : State) (r : OpResult) :
    andThen (w.attempt l t) (returns r) = w.attempt l (t.pushResult r) := by
  cases hl : l.findSome? w.refusal with
  | none => rw [attempt_of_none _ hl, attempt_of_none _ hl, andThen_next, returns_eq]
  | some r => rw [attempt_of_some _ hl, attempt_of_some _ hl, andThen_refused]

/-- Every pass is its transactions and the state after them (R150). -/
theorem applyVerdict_eq_attempt (v : Verdict) (s : State) :
    applyVerdict v s = s.wiring.attempt v.outputs (v.after s) := by
  have hattached : ∀ {u : State}, applyVerdict v s = .next u → applyVerdict v s = .next (v.after s) :=
    fun h => applyVerdict_next h ▸ h
  cases v with
  | skip => exact hattached rfl
  | dropFrame n => exact hattached rfl
  | reserved n => exact hattached rfl
  | crcMismatch n =>
    cases he : s.wiring.events with
    | true =>
      rw [applyVerdict_crcMismatch n he]
      exact (Wiring.attempt_of_none _ (by simp [Verdict.outputs, Wiring.refusal, he])).symm
    | false =>
      rw [applyVerdict, emit_of_detached (s := s.enterError) .crcError he]
      exact (Wiring.attempt_of_some _ (by simp [Verdict.outputs, Wiring.refusal, he])).symm
  | data n payload =>
    cases hu : s.wiring.upper with
    | true =>
      cases he : s.wiring.events with
      | true =>
        rw [applyVerdict_attached _ hu he]
        exact (Wiring.attempt_of_none _ (by simp [Verdict.outputs, Wiring.refusal, hu, he])).symm
      | false =>
        rw [applyVerdict, deliver_of_attached payload hu, andThen_next, emit_of_detached _ (by exact he)]
        exact (Wiring.attempt_of_some _ (by simp [Verdict.outputs, Wiring.refusal, hu, he])).symm
    | false =>
      rw [applyVerdict, deliver_of_detached payload hu]
      exact (Wiring.attempt_of_some _ (by simp [Verdict.outputs, Wiring.refusal, hu])).symm

/-! ### The loop -/

/-- The state the receive engine ends in: every examined frame has left its outputs and its `link_state`, and the queue
keeps what follows its last delimiter. -/
def State.pinned (s : State) : State :=
  { s with
    linkState := (framesIn s.incoming).foldl frameState s.linkState
    incoming := afterLastZero s.incoming
    walk := none
    outputs := s.outputs ++ (framesIn s.incoming).flatMap frameOutputs }

theorem pinned_of_zeroFree {s : State} (hw : s.walk = none) (h : ZeroFree s.incoming) : s.pinned = s := by
  rw [State.pinned, framesIn_await (firstZero_of_zeroFree h), afterLastZero_of_zeroFree h, List.foldl_nil,
    List.flatMap_nil, List.append_nil, ← hw]

/-- One pass does not change where the engine ends. -/
theorem pinned_after {s : State} {v : Verdict} (h : headVerdict s.incoming = some v) :
    (v.after s).pinned = s.pinned := by
  obtain ⟨d, hd, -, hle⟩ := headVerdict_removed h
  obtain ⟨ds, hframes, houts, hstate⟩ := framesIn_pass h
  simp only [State.pinned, Verdict.after, afterLastZero_drop hd hle, hframes, List.foldl_append, List.flatMap_append,
    houts, hstate, List.append_assoc]

/-- The outputs of the examined frames, split at the first pass. -/
theorem flatMap_frameOutputs_pass {q : List Byte} {v : Verdict} (h : headVerdict q = some v) :
    (framesIn q).flatMap frameOutputs = v.outputs ++ (framesIn (q.drop v.removed)).flatMap frameOutputs := by
  obtain ⟨ds, hframes, houts, -⟩ := framesIn_pass h
  rw [hframes, List.flatMap_append, houts]

/-- A queue has a delimiter or none; with one, the engine makes a pass that shortens the queue (R151, R159). -/
theorem zeroFree_or_headVerdict (q : List Byte) :
    ZeroFree q ∨ ∃ v, headVerdict q = some v ∧ (q.drop v.removed).length < q.length := by
  cases hv : headVerdict q with
  | none => exact .inl ((firstZero_eq_none_iff q).1 ((headVerdict_eq_none_iff q).1 hv))
  | some v =>
    obtain ⟨d, hd, h1, -⟩ := headVerdict_removed hv
    have hlt := firstZero_lt_length hd
    exact .inr ⟨v, rfl, by rw [List.length_drop]; omega⟩

theorem pinAll_eq_attempt (s : State) (hw : s.walk = none) :
    pinAll s = s.wiring.attempt ((framesIn s.incoming).flatMap frameOutputs) s.pinned := by
  obtain hfree | ⟨v, hv, hlt⟩ := zeroFree_or_headVerdict s.incoming
  · rw [pinAll_await (firstZero_of_zeroFree hfree), framesIn_await (firstZero_of_zeroFree hfree),
      pinned_of_zeroFree hw hfree]
    rfl
  · have ih := pinAll_eq_attempt (v.after s) rfl
    rw [pinned_after hv] at ih
    rw [pinAll_pass hv, applyVerdict_eq_attempt, flatMap_frameOutputs_pass hv,
      Wiring.attempt_append _ _ _ _ (v.after s)]
    cases ha : s.wiring.attempt v.outputs (v.after s) with
    | next u =>
      obtain rfl := Wiring.eq_of_attempt_eq_next ha
      exact ih
    | fault r => rfl
    | refused r => rfl
termination_by s.incoming.length

/-- LINK.PIN: the transactions of the examined frames, then the result 0 (R150). -/
theorem exec_linkPin_eq_attempt {s : State} (hs : s.AtBoundary) :
    exec .linkPin s =
      s.wiring.attempt ((framesIn s.incoming).flatMap frameOutputs) (s.pinned.pushResult (.int 0)) := by
  rw [exec_linkPin, execLinkPin_eq hs, pinAll_eq_attempt s.endWalk rfl]
  exact Wiring.attempt_andThen_returns _ _ _ _

/-- With the upper layer and the event manager attached no transaction of a frame is refused. -/
theorem refusal_frameOutputs_attached {w : Wiring} (hu : w.upper = true) (he : w.events = true) (d : List Byte) :
    ∀ o ∈ frameOutputs d, w.refusal o = none := by
  by_cases hc : RightCrc d
  · by_cases ht : d.getD 0 0 = 0x01
    · simp [frameOutputs_deliverable ⟨hc, ht⟩, Wiring.refusal, hu, he]
    · simp [frameOutputs_reserved hc ht]
  · simp [frameOutputs_wrongCrc hc, Wiring.refusal, he]

theorem pinAll_attached {s : State} (hw : s.walk = none) (hu : s.wiring.upper = true) (he : s.wiring.events = true) :
    pinAll s = .next s.pinned := by
  rw [pinAll_eq_attempt s hw]
  refine Wiring.attempt_of_none _ (List.findSome?_eq_none_iff.2 fun o ho => ?_)
  obtain ⟨d, -, hod⟩ := List.mem_flatMap.1 ho
  exact refusal_frameOutputs_attached hu he d o hod

theorem exec_linkPin_attached {s : State} (hs : s.AtBoundary) (hu : s.wiring.upper = true)
    (he : s.wiring.events = true) : exec .linkPin s = .next (s.pinned.pushResult (.int 0)) := by
  rw [exec_linkPin, execLinkPin_eq hs, pinAll_attached (s := s.endWalk) rfl hu he, andThen_next]
  rfl

/-! ### The examined frames -/

theorem rightLength_of_mem_examinedFrames {fuel : Nat} {q d : List Byte} (h : d ∈ examinedFrames fuel q) :
    RightLength d := by
  induction fuel generalizing q with
  | zero => cases h
  | succ fuel ih =>
    rw [examinedFrames_succ] at h
    split at h
    · cases h
    · exact ih h
    · split at h
      · exact ih h
      split at h
      next hr =>
        obtain rfl | h := List.mem_cons.1 h
        · exact hr
        · exact ih h
      next => exact ih h

theorem length_payloadOf_le {d : List Byte} (h : RightLength d) : (payloadOf d).length ≤ 250 :=
  Nat.le_trans (List.length_take_le _ _) h.2.1

theorem length_payloadOf_of_mem_framesIn {q d : List Byte} (h : d ∈ framesIn q) : (payloadOf d).length ≤ 250 :=
  length_payloadOf_le (rightLength_of_mem_examinedFrames h)

/-! ### The obligations -/

/-- Settles O29: with both receivers attached the loop ends in the state that the examined frames describe. -/
theorem pinConsumesEveryDelimiter : Obligations.PinConsumesEveryDelimiter := by
  intro s hs hu he
  obtain ⟨gone, hq, hfree, hlast⟩ := exists_append_afterLastZero s.incoming
  exact ⟨gone, afterLastZero s.incoming, hq, hfree, hlast, exec_linkPin_attached hs hu he,
    fun d hd => length_payloadOf_of_mem_framesIn hd⟩

/-- A queue without a delimiter: LINK.PIN only answers 0 (R151). -/
theorem exec_linkPin_of_zeroFree {s : State} (hs : s.AtBoundary) (h : ZeroFree s.incoming) :
    exec .linkPin s = .next (s.answered (.int 0)) := by
  rw [exec_linkPin, execLinkPin_eq hs, pinAll_await (s := s.endWalk) (firstZero_of_zeroFree h), andThen_next,
    returns_eq, pushResult_endWalk]

/-- Settles O30: the loop returns at once. -/
theorem pinAwaitsADelimiter : Obligations.PinAwaitsADelimiter :=
  fun _ hs h => exec_linkPin_of_zeroFree hs h

/-- Settles O34: the verdict is `data`, both receivers are attached, and LINK.PIN starts again from READY. -/
theorem pinDeliversADataFrame : Obligations.PinDeliversADataFrame := by
  intro s decoded n hs hu he hd hlen hcrc htype
  have hv : headVerdict s.incoming = some (.data n (payloadOf decoded)) := by
    rw [headVerdict_of_ok hd, parseFrame_deliverable n hlen ⟨hcrc, htype⟩]
  exact exec_linkPin_pass (iff_of_true hs nofun) hv (applyVerdict_attached _ hu he)

/-- Settles O35: the verdict is `reserved`, whose pass makes no transaction. -/
theorem pinRejectsAReservedType : Obligations.PinRejectsAReservedType := by
  intro s decoded n hs hd hlen hcrc htype
  have hv : headVerdict s.incoming = some (.reserved n) := by
    rw [headVerdict_of_ok hd, parseFrame_reserved n hlen hcrc htype]
  exact exec_linkPin_pass (iff_of_true hs nofun) hv rfl

end Sys2Proof.Machine
end

section
/-! The wire frame of a payload (R73, R80): its body and its length, what the decoder and LINK.PIN make of it, and a
payload carried from one block to another (95_test_vectors.md section 2.9, T3). -/

namespace Sys2Proof.Machine

/-! ### The wire frame -/

theorem length_cobsEncodeBody_le {x : List Byte} (h : x.length ≤ 254) :
    x.length + 1 ≤ (cobsEncodeBody x).length ∧ (cobsEncodeBody x).length ≤ 256 := by
  by_cases hx : x.length = 254 ∧ ZeroFree x
  · have hpos : 1 ≤ x.length := by omega
    have hfull := (encodedLengthIsOneMore x hpos h).1 hx
    omega
  · have hlen := length_cobsEncodeBody h hx
    omega

/-- R73: 6 to 257 bytes. -/
theorem length_wire {p : List Byte} (hp : p.length ≤ 250) : 6 ≤ (wire p).length ∧ (wire p).length ≤ 257 := by
  have hbody := length_cobsEncodeBody_le (linkFrame_length_le hp)
  rw [linkFrame_length] at hbody
  rw [wire, List.length_append, List.length_singleton]
  omega

/-- Settles O22: the body is the encoded frame. -/
theorem wireFrameIsBodyAndOneDelimiter : Obligations.WireFrameIsBodyAndOneDelimiter :=
  fun p hp => ⟨⟨cobsEncodeBody (linkFrame p), rfl, zeroFree_cobsEncodeBody _⟩, length_wire hp⟩

/-- R118 on a wire frame, whatever follows it. -/
theorem cobsDecode_wire {p : List Byte} (rest : List Byte) (hp : p.length ≤ 250) :
    cobsDecode (wire p ++ rest) 254 = .ok (linkFrame p, (wire p).length) := by
  have hbody := decodeBody_cobsEncodeBody (linkFrame p) (linkFrame_length_le hp)
  rw [wire, List.append_assoc, List.singleton_append, cobsDecode_eq_decodeBody _ _ (zeroFree_cobsEncodeBody _), hbody,
    List.length_append, List.length_singleton]
  rfl

/-! ### The frame that LINK.SEND builds passes every check of LINK.PIN -/

theorem linkFrame_getD_zero (p : List Byte) : (linkFrame p).getD 0 0 = 0x01 := rfl

theorem toNat_linkFrame_getD_one {p : List Byte} (hp : p.length ≤ 250) :
    ((linkFrame p).getD 1 0).toNat = p.length := by
  change (BitVec.ofNat 8 p.length).toNat = p.length
  rw [BitVec.toNat_ofNat]
  omega

theorem rightLength_linkFrame {p : List Byte} (hp : p.length ≤ 250) : RightLength (linkFrame p) := by
  rw [RightLength, toNat_linkFrame_getD_one hp, linkFrame_length]
  omega

/-- A frame ends in two trailer bytes, which are read back as the checksum of what stands before them (R154). -/
theorem rightCrc_append_leBytes (body : List Byte) : RightCrc (body ++ leBytes (crc16 body)) := by
  have hlen : (body ++ leBytes (crc16 body)).length = body.length + 2 := List.length_append
  have hlo : (body ++ leBytes (crc16 body)).getD body.length 0 = loByte (crc16 body) := by
    rw [List.getD_eq_getElem?_getD, List.getElem?_append_right (Nat.le_refl _), Nat.sub_self]
    rfl
  have hhi : (body ++ leBytes (crc16 body)).getD (body.length + 1) 0 = hiByte (crc16 body) := by
    rw [List.getD_eq_getElem?_getD, List.getElem?_append_right (Nat.le_add_right _ _), Nat.add_sub_cancel_left]
    rfl
  rw [RightCrc, hlen, Nat.add_sub_cancel, List.take_left, hlo, Nat.add_sub_assoc (by decide), hhi, assemble_lo_hi]

theorem deliverable_linkFrame (p : List Byte) : Deliverable (linkFrame p) :=
  ⟨rightCrc_append_leBytes _, linkFrame_getD_zero p⟩

theorem payloadOf_linkFrame {p : List Byte} (hp : p.length ≤ 250) : payloadOf (linkFrame p) = p := by
  rw [payloadOf, toNat_linkFrame_getD_one hp]
  exact List.take_left

/-- Settles O36: the head decodes to the frame LINK.SEND built, which is a DATA frame that passes the checks. -/
theorem pinRecoversASentFrame : Obligations.PinRecoversASentFrame := by
  intro s p rest hs hu he hp hq
  have hd : cobsDecode s.incoming 254 = .ok (linkFrame p, (wire p).length) := hq ▸ cobsDecode_wire rest hp
  have hdeliver := pinDeliversADataFrame s (linkFrame p) (wire p).length hs hu he hd (rightLength_linkFrame hp)
    (deliverable_linkFrame p).1 (deliverable_linkFrame p).2
  rwa [payloadOf_linkFrame hp, hq, List.drop_left] at hdeliver

end Sys2Proof.Machine
end

section
/-! What each of the nine operations answers, by its checks: the codec and link control, then LINK.SEND, LINK.POUT and
LINK.RX. -/

namespace Sys2Proof.Machine

variable {s : State}

/-! ### The dispatcher's arms -/

theorem exec_crcCalc (x : List Byte) (s : State) : exec (.crcCalc x) s = execCrcCalc x s := rfl
theorem exec_cobsEnc (x : Option (List Byte)) (cap : Nat) (s : State) :
    exec (.cobsEnc x cap) s = execCobsEnc x cap s := rfl
theorem exec_cobsDec (x : Option (List Byte)) (cap : Nat) (s : State) :
    exec (.cobsDec x cap) s = execCobsDec x cap s := rfl
theorem exec_linkSend (x : SeqArg) (s : State) : exec (.linkSend x) s = execLinkSend x s := rfl
theorem exec_linkRx (x : SeqArg) (s : State) : exec (.linkRx x) s = execLinkRx x s := rfl
theorem exec_linkPout (r : Int) (s : State) : exec (.linkPout r) s = execLinkPout r s := rfl
theorem exec_linkReset (s : State) : exec .linkReset s = execLinkReset s := rfl
theorem exec_linkMaxpl (s : State) : exec .linkMaxpl s = execLinkMaxpl s := rfl

/-! ### The codec and link control -/

theorem exec_cobsEnc_null (hs : s.AtBoundary) (cap : Nat) :
    exec (.cobsEnc none cap) s = .next (s.answered (.err .invalidInput)) := by
  rw [exec_cobsEnc, execCobsEnc, operation_of_atBoundary _ hs]
  rfl

/-- COBS.ENC completes with the error that the encoder answers (R101). -/
theorem exec_cobsEnc_of_error {x : List Byte} {cap : Nat} {e : ErrName} (hs : s.AtBoundary)
    (hroom : ¬(x = [] ∧ cap = 0)) (h : cobsEncode x cap = .error e) :
    exec (.cobsEnc (some x) cap) s = .next (s.answered (.err e)) := by
  have harm : exec (.cobsEnc (some x) cap) s = execCobsEnc (some x) cap s := rfl
  rw [harm, execCobsEnc, operation_of_atBoundary _ hs]
  simp only [if_neg hroom, h, returnErr_eq, pushResult_endWalk]

theorem exec_cobsEnc_nil_zero (hs : s.AtBoundary) : exec (.cobsEnc (some []) 0) s = .refused .encEmptyNoRoom := by
  rw [exec_cobsEnc, execCobsEnc, operation_of_atBoundary _ hs]
  rfl

/-- R101: more than 254 bytes. -/
theorem cobsEncode_of_long {x : List Byte} (cap : Nat) (h : 254 < x.length) : cobsEncode x cap = .error .invalidInput :=
  if_pos h

/-- R101: too little room. -/
theorem cobsEncode_of_small {x : List Byte} {cap : Nat} (h : x.length ≤ 254) (hcap : cap < encBound x.length) :
    cobsEncode x cap = .error .outputTooSmall :=
  (if_neg (Nat.not_lt.2 h)).trans (if_pos hcap)

theorem exec_cobsDec_null (hs : s.AtBoundary) (cap : Nat) :
    exec (.cobsDec none cap) s = .next (s.answered (.err .invalidInput)) := by
  rw [exec_cobsDec, execCobsDec, operation_of_atBoundary _ hs]
  rfl

/-- COBS.DEC completes with the error that the decoder answers (R111). -/
theorem exec_cobsDec_of_error {x : List Byte} {cap : Nat} {e : ErrName} (hs : s.AtBoundary)
    (h : cobsDecode x cap = .error e) : exec (.cobsDec (some x) cap) s = .next (s.answered (.err e)) := by
  have harm : exec (.cobsDec (some x) cap) s = execCobsDec (some x) cap s := rfl
  rw [harm, execCobsDec, operation_of_atBoundary _ hs]
  simp only [h, returnErr_eq, pushResult_endWalk]

/-- R171. -/
theorem exec_linkReset_eq_next (hs : s.AtBoundary) :
    exec .linkReset s = .next { s with
      linkState := .ready, outgoing := [], incoming := [], walk := none
      outputs := s.outputs ++ [.result .noResult] } := by
  rw [exec_linkReset, execLinkReset, operation_of_atBoundary _ hs]
  rfl

/-- R173. -/
theorem exec_linkMaxpl_eq_next (hs : s.AtBoundary) : exec .linkMaxpl s = .next (s.answered (.int 250)) := by
  rw [exec_linkMaxpl, execLinkMaxpl, operation_of_atBoundary _ hs]
  rfl

/-! ### LINK.SEND -/

/-- An event that ends in a result is one transaction. -/
theorem emit_returns (ev : Event) (s : State) (r : OpResult) :
    andThen (emit ev s) (returns r) = s.wiring.attempt [.event ev] ((s.output (.event ev)).pushResult r) := by
  cases he : s.wiring.events with
  | true =>
    rw [emit_of_attached ev he, Wiring.attempt_of_none _ (by simp [Wiring.refusal, he])]
    rfl
  | false =>
    rw [emit_of_detached ev he, Wiring.attempt_of_some _ (by simp [Wiring.refusal, he]; rfl)]
    rfl

theorem exec_linkSend_null (hs : s.AtBoundary) (n : Nat) :
    exec (.linkSend (.null n)) s = .next (s.answered (.err .invalidParam)) := by
  rw [exec_linkSend, execLinkSend, operation_of_atBoundary _ hs]
  rfl

theorem exec_linkSend_long {p : List Byte} (hs : s.AtBoundary) (hp : 250 < p.length) :
    exec (.linkSend (.bytes p)) s = .next (s.answered (.err .invalidParam)) := by
  rw [exec_linkSend, execLinkSend, operation_of_atBoundary _ hs]
  exact if_pos hp

/-- A payload that passes validation is sent from READY (R122). -/
theorem exec_linkSend_eq_sendFrame {p : List Byte} (hs : s.AtBoundary) (hp : p.length ≤ 250) :
    exec (.linkSend (.bytes p)) s = sendFrame p s.endWalk.enterReady := by
  rw [exec_linkSend, execLinkSend, operation_of_atBoundary _ hs, ← State.autoReset_eq (s := s.endWalk) hs]
  exact if_neg (Nat.not_lt.2 hp)

theorem exec_linkSend_general {p : List Byte} (hs : s.AtBoundary) (hp : p.length ≤ 250)
    (hc : s.params.encCap < encBound (p.length + 4)) :
    exec (.linkSend (.bytes p)) s =
      .next { s with linkState := .ready, walk := none, outputs := s.outputs ++ [.result (.err .general)] } :=
  (exec_linkSend_eq_sendFrame hs hp).trans (sendFrame_general hp hc)

theorem exec_linkSend_full {p : List Byte} (hs : s.AtBoundary) (hp : p.length ≤ 250)
    (hc : encBound (p.length + 4) ≤ s.params.encCap) (hr : ¬fits s.outgoing (wire p)) :
    exec (.linkSend (.bytes p)) s =
      .next { s with linkState := .ready, walk := none, outputs := s.outputs ++ [.result (.err .bufferFull)] } :=
  (exec_linkSend_eq_sendFrame hs hp).trans (sendFrame_full hp hc hr)

/-- What a LINK.SEND that returns 0 leaves (R126). -/
def State.sent (s : State) (p : List Byte) : State :=
  { s with
    linkState := .ready
    outgoing := s.outgoing ++ wire p
    walk := none
    outputs := s.outputs ++ [.event .outgoingDataAvailable, .result (.int 0)] }

theorem exec_linkSend_queued {p : List Byte} (hs : s.AtBoundary) (hp : p.length ≤ 250)
    (hc : encBound (p.length + 4) ≤ s.params.encCap) (hr : fits s.outgoing (wire p)) :
    exec (.linkSend (.bytes p)) s = s.wiring.attempt [.event .outgoingDataAvailable] (s.sent p) := by
  rw [exec_linkSend_eq_sendFrame hs hp, sendFrame_queued (s := s.endWalk.enterReady) hp hc hr, emit_returns]
  simp only [State.sent, State.pushResult, State.output, State.appendOutgoing, State.enterReady, State.endWalk,
    List.append_assoc, List.singleton_append]

/-! ### LINK.POUT -/

theorem exec_linkPout_held (hs : s.AtBoundary) (r : Int) (h : s.outgoing = [] ∨ s.linkState ≠ .ready) :
    exec (.linkPout r) s = .next (s.answered (.int 0)) := by
  rw [exec_linkPout, execLinkPout, operation_of_atBoundary _ hs]
  exact if_pos h

/-- READY and something to transmit: the downward call, then its answer (R131, R132). -/
theorem exec_linkPout_eq_phySend (r : Int) (hl : s.linkState = .ready) (hq : s.outgoing ≠ []) :
    exec (.linkPout r) s = andThen (phySend s.submission r s.endWalk.enterSending) fun s =>
      returns (.int r) (s.dropOutgoing r.toNat).enterReady := by
  have hs : s.AtBoundary := by rw [State.AtBoundary, hl]; decide
  rw [exec_linkPout, execLinkPout, operation_of_atBoundary _ hs]
  exact if_neg (not_or.2 ⟨hq, not_not_intro hl⟩)

/-- What a LINK.POUT that makes its call leaves (R133). -/
def State.transmitted (s : State) (r : Int) : State :=
  { s with
    outgoing := s.outgoing.drop r.toNat
    walk := none
    outputs := s.outputs ++ [.phyCall ⟨s.submission, r⟩, .result (.int r)] }

/-- The call completes exactly when it has a receiver that took no more than it was given (R131, R207). -/
theorem exec_linkPout_eq_next {r : Int} {t : State} (hl : s.linkState = .ready) (hq : s.outgoing ≠ []) :
    exec (.linkPout r) s = .next t ↔
      s.wiring.physical = true ∧ r ≤ s.submission.length ∧ t = s.transmitted r := by
  have hafter : State.pushResult
      ((s.endWalk.enterSending.output (.phyCall ⟨s.submission, r⟩)).dropOutgoing r.toNat).enterReady (.int r) =
      s.transmitted r := by
    simp only [State.transmitted, State.pushResult, State.output, State.dropOutgoing, State.enterReady,
      State.enterSending, State.endWalk, hl, List.append_assoc, List.singleton_append]
  rw [exec_linkPout_eq_phySend r hl hq, andThen_eq_next, ← hafter]
  constructor
  · rintro ⟨u, hu, ht⟩
    obtain ⟨hphys, hr, rfl⟩ := phySend_eq_next.1 hu
    cases ht
    exact ⟨hphys, hr, rfl⟩
  · rintro ⟨hphys, hr, rfl⟩
    exact ⟨_, phySend_eq_next.2 ⟨hphys, hr, rfl⟩, rfl⟩

/-! ### LINK.RX -/

theorem exec_linkRx_null (hs : s.AtBoundary) (n : Nat) :
    exec (.linkRx (.null n)) s = .next (s.answered (.err .invalidParam)) := by
  rw [exec_linkRx, execLinkRx, operation_of_atBoundary _ hs]
  rfl

theorem exec_linkRx_overflow {x : List Byte} (hs : s.AtBoundary) (h : ¬fits s.incoming x) :
    exec (.linkRx (.bytes x)) s =
      .next { s with incoming := [], walk := none, outputs := s.outputs ++ [.result (.err .bufferFull)] } := by
  rw [exec_linkRx, execLinkRx, operation_of_atBoundary _ hs]
  exact if_neg h

/-- What a LINK.RX that returns 0 leaves (R144). -/
def State.deposited (s : State) (x : List Byte) : State :=
  { s with
    incoming := s.incoming ++ x
    walk := none
    outputs := s.outputs ++ [.event .incomingDataAvailable, .result (.int 0)] }

theorem exec_linkRx_fits {x : List Byte} (hs : s.AtBoundary) (h : fits s.incoming x) :
    exec (.linkRx (.bytes x)) s = s.wiring.attempt [.event .incomingDataAvailable] (s.deposited x) := by
  have hemit : exec (.linkRx (.bytes x)) s =
      andThen (emit .incomingDataAvailable (s.endWalk.appendIncoming x)) (returns (.int 0)) := by
    rw [exec_linkRx, execLinkRx, operation_of_atBoundary _ hs]
    exact if_pos h
  rw [hemit, emit_returns]
  simp only [State.deposited, State.pushResult, State.output, State.appendIncoming, State.endWalk, List.append_assoc,
    List.singleton_append]

/-! ### The obligations -/

/-- Settles O12: each clause is one of R101's checks, in their order, or the encoder's answer. -/
theorem cobsEncAnswersByItsChecks : Obligations.CobsEncAnswersByItsChecks := by
  intro s hs
  refine ⟨exec_cobsEnc_null hs, fun x cap hx => ?_, fun x cap hx hroom hcap => ?_, fun cap hcap => ?_,
    fun x cap hne hx hcap => ?_, exec_cobsEnc_nil_zero hs⟩
  · have hroom : ¬(x = [] ∧ cap = 0) := fun ⟨h, _⟩ => by rw [h] at hx; cases hx
    exact exec_cobsEnc_of_error hs hroom (cobsEncode_of_long cap hx)
  · exact exec_cobsEnc_of_error hs hroom (cobsEncode_of_small hx hcap)
  · exact exec_cobsEnc_of_ok hs (cobsEncode_eq_ok_iff.2 ⟨by decide, hcap, rfl⟩)
  · exact exec_cobsEnc_of_ok hs (cobsEncode_eq_ok_iff.2 ⟨hx, hcap, (if_neg hne).symm⟩)

/-- The decoder's failures: an overrun or a lack of room in a run, or no delimiter (R112, R114). -/
theorem decodeRun_error {inp : List Byte} {d cap : Nat} {r : DecRegs} {e : ErrName}
    (h : decodeRun inp d cap r = .error e) : e = .invalidInput ∨ e = .outputTooSmall := by
  simp only [decodeRun] at h
  split at h
  · exact .inl (Except.error.inj h).symm
  split at h
  · exact .inr (Except.error.inj h).symm
  split at h
  · split at h
    · exact .inr (Except.error.inj h).symm
    · cases h
  · cases h

theorem decodeRuns_error {inp : List Byte} {d cap fuel : Nat} {r : DecRegs} {e : ErrName}
    (h : decodeRuns inp d cap fuel r = .error e) : e = .invalidInput ∨ e = .outputTooSmall := by
  induction fuel generalizing r with
  | zero => cases h
  | succ fuel ih =>
    rw [decodeRuns] at h
    split at h
    · cases hrun : decodeRun inp d cap r with
      | ok r' => rw [hrun] at h; exact ih h
      | error e' =>
        rw [hrun] at h
        cases h
        exact decodeRun_error hrun
    · cases h

theorem cobsDecode_error {x : List Byte} {cap : Nat} {e : ErrName} (h : cobsDecode x cap = .error e)
    (hx : ¬ZeroFree x) : e = .invalidInput ∨ e = .outputTooSmall := by
  obtain ⟨d, hd⟩ := Option.ne_none_iff_exists'.1 (mt (firstZero_eq_none_iff x).1 hx)
  simp only [cobsDecode, hd] at h
  split at h
  · cases h
  · cases hruns : decodeRuns x d cap d ⟨0, []⟩ with
    | ok out => rw [hruns] at h; cases h
    | error e' =>
      rw [hruns] at h
      cases h
      exact decodeRuns_error hruns

/-- Settles O16: NULL, no delimiter, a delimiter at the head, and the two ways the walk of a body ends. -/
theorem cobsDecAnswersInOrder : Obligations.CobsDecAnswersInOrder := by
  intro s hs
  refine ⟨exec_cobsDec_null hs, fun x cap hx => ?_, fun t cap => exec_cobsDec_of_ok hs (cobsDecode_zero_cons t cap),
    fun x cap hx => ?_⟩
  · exact exec_cobsDec_of_error hs ((cobsDecode_incomplete_iff x cap).2 (firstZero_of_zeroFree hx))
  · cases hd : cobsDecode x cap with
    | ok o => exact .inl ⟨o.1, o.2, rfl, exec_cobsDec_of_ok hs hd⟩
    | error e => exact .inr ⟨e, rfl, cobsDecode_error hd hx, exec_cobsDec_of_error hs hd⟩

/-- Settles O20: both checks of R121 answer before the auto-reset. -/
theorem sendRefusesBadOperands : Obligations.SendRefusesBadOperands :=
  fun _ hs => ⟨exec_linkSend_null hs, fun _ hp => exec_linkSend_long hs hp⟩

/-- Settles O23: the one transaction has its receiver. -/
theorem sendQueuesOneWireFrame : Obligations.SendQueuesOneWireFrame := by
  intro p s hs he hp hc hr
  rw [exec_linkSend_queued hs hp hc hr]
  exact Wiring.attempt_of_none _ (by simp [Wiring.refusal, he])

/-- Settles O24: the encoder's check comes before the queue's, and both after the auto-reset. -/
theorem sendFailuresLeaveTheQueues : Obligations.SendFailuresLeaveTheQueues :=
  fun _ _ hs hp => ⟨exec_linkSend_general hs hp, fun hc hr => exec_linkSend_full hs hp hc (Nat.not_le.2 hr)⟩

/-- Settles O25: in ERROR the block is not READY. -/
theorem poutIsHeldOff : Obligations.PoutIsHeldOff :=
  fun r _ hs h => exec_linkPout_held hs r (h.imp_right fun he => by rw [he]; decide)

/-- Settles O26: the call has its receiver, and its answer is within what was submitted. -/
theorem poutSubmitsTheHead : Obligations.PoutSubmitsTheHead := by
  intro r s hl hq hphys hr
  refine (exec_linkPout_eq_next hl hq).2 ⟨hphys, ?_, rfl⟩
  rw [submission_length]
  omega

/-- Settles O28: NULL, no room, or one transaction that has its receiver. -/
theorem rxAppendsOrClears : Obligations.RxAppendsOrClears := by
  intro s hs
  refine ⟨exec_linkRx_null hs, fun x hx => exec_linkRx_overflow hs (Nat.not_le.2 hx), fun x hx he => ?_⟩
  rw [exec_linkRx_fits hs hx]
  exact Wiring.attempt_of_none _ (by simp [Wiring.refusal, he])

/-- Settles O38: the boundary is all it needs. -/
theorem linkResetEmptiesTheQueues : Obligations.LinkResetEmptiesTheQueues := fun _ hs => exec_linkReset_eq_next hs

/-- Settles O39: the boundary is all it needs. -/
theorem maxplAnswers250 : Obligations.MaxplAnswers250 := fun _ hs => exec_linkMaxpl_eq_next hs

/-- Settles O40: LINK.POUT is held off by the empty queue, and LINK.PIN awaits a delimiter. -/
theorem quiescentBlockIsStill : Obligations.QuiescentBlockIsStill :=
  fun _ r hs ⟨hout, hin⟩ => ⟨exec_linkPout_held hs r (.inl hout), exec_linkPin_of_zeroFree hs hin⟩

end Sys2Proof.Machine
end

section
/-! The words of the opcode table and the step that runs them (R31, R61 to R71), and the reset state (R34, R221). -/

namespace Sys2Proof.Machine

/-! ### Words and steps -/

/-- Settles O7: one lemma per row of the opcode table. -/
theorem decodeInvertsEncode : Obligations.DecodeInvertsEncode := by
  intro i
  cases i with
  | crcCalc x => exact Laws.RoundTrip.crcCalc x
  | cobsEnc x cap => exact Laws.RoundTrip.cobsEnc x cap
  | cobsDec x cap => exact Laws.RoundTrip.cobsDec x cap
  | linkSend x => exact Laws.RoundTrip.linkSend x
  | linkRx x => exact Laws.RoundTrip.linkRx x
  | linkPout r => exact Laws.RoundTrip.linkPout r
  | linkPin => exact Laws.RoundTrip.linkPin
  | linkReset => exact Laws.RoundTrip.linkReset
  | linkMaxpl => exact Laws.RoundTrip.linkMaxpl
  | unassigned9 => exact Laws.RoundTrip.unassigned9
  | unassignedAB x => exact Laws.RoundTrip.unassignedAB x
  | unassignedCF x => exact Laws.RoundTrip.unassignedCF x
  | frameTypeData => exact Laws.RoundTrip.frameTypeData
  | frameTypeReserved b => exact Laws.RoundTrip.frameTypeReserved b
  | wireDelimiter => exact Laws.RoundTrip.wireDelimiter
  | cobsCodeRun c => exact Laws.RoundTrip.cobsCodeRun c
  | cobsCodeFull => exact Laws.RoundTrip.cobsCodeFull
  | cobsData b => exact Laws.RoundTrip.cobsData b

/-- A command word decodes to an operation, whose row has no range of its own (R61). -/
theorem wellFormed_of_decodeCommand {op : BitVec 4} {operands : List Operand} {i : Instr}
    (h : decodeCommand op operands = .ok i) : i.wellFormed = true := by
  have hseq : ∀ {f : SeqArg → Instr}, (∀ x, (f x).wellFormed = true) →
      (decodeSeqArg op operands).map f = .ok i → i.wellFormed = true := by
    intro f hf h
    cases hd : decodeSeqArg op operands with
    | ok x => rw [hd] at h; cases h; exact hf x
    | error e => rw [hd] at h; cases h
  unfold decodeCommand at h
  split at h
  case h_4 => exact hseq (fun _ => rfl) h
  case h_5 => exact hseq (fun _ => rfl) h
  all_goals cases h
  all_goals rfl

/-- A code byte decodes to the delimiter, a full run or a run, by its value (R71). -/
theorem wellFormed_decodeCode (b : Byte) : (decodeCode b).wellFormed = true := by
  unfold decodeCode
  split
  · rfl
  split
  · rfl
  · simp_all [Instr.wellFormed]

/-- Settles O6: the formats one by one; a symbol's range is the branch it comes from. -/
theorem decodedInstructionsAreWellFormed : Obligations.DecodedInstructionsAreWellFormed := by
  intro w i h
  cases w with
  | cmd op operands => exact wellFormed_of_decodeCommand h
  | frameType b =>
    by_cases hb : b = Config.frameTypeData
    · rw [decode, if_pos hb] at h
      cases h
      rfl
    · rw [decode, if_neg hb] at h
      cases h
      exact bne_iff_ne.2 hb
  | wire b =>
    by_cases hb : b = Config.delim
    · rw [decode, if_pos hb] at h
      cases h
      rfl
    · rw [decode, if_neg hb] at h
      cases h
  | wireCode b =>
    cases h
    exact wellFormed_decodeCode b
  | wireData b =>
    by_cases hb : b = Config.delim
    · rw [decode, if_pos hb] at h
      cases h
      rfl
    · rw [decode, if_neg hb] at h
      cases h
      exact bne_iff_ne.2 hb

/-- Settles O5: the decoder evaluates on each word. -/
theorem tableWordsDecodeAsTheSpecSays : Obligations.TableWordsDecodeAsTheSpecSays :=
  ⟨rfl, rfl, rfl, rfl, rfl, rfl, rfl, rfl, rfl, rfl, rfl, rfl, rfl, rfl, rfl, rfl⟩

/-- R199, R225: with no word waiting a step is the identity. -/
theorem step_of_pending_nil {s : State} (h : s.pending = []) : step s = .next s := by
  simp only [step, runPending, h]

/-- Settles O3: taking the head word leaves the rest. -/
theorem stepRunsTheDecodedWord : Obligations.StepRunsTheDecodedWord := by
  intro s w rest i hpending hdecode _
  rw [step_of_decode hpending hdecode, State.popPending, hpending, List.tail_cons]

/-- Settles O4: no word, and a word with a decode error. -/
theorem stepWaitsAndRefusesByName : Obligations.StepWaitsAndRefusesByName := by
  refine ⟨fun s h => step_of_pending_nil h, fun s w rest e hpending hdecode => ?_⟩
  simp only [step, runPending, runWord, hpending, hdecode]

/-- A step either waits or runs the instruction that the head word decodes to, on the state without that word. -/
theorem step_eq_next {s t : State} (h : step s = .next t) :
    (s.pending = [] ∧ t = s) ∨ ∃ i : Instr, i.wellFormed = true ∧ exec i s.popPending = .next t := by
  cases hp : s.pending with
  | nil =>
    rw [step_of_pending_nil hp] at h
    cases h
    exact .inl ⟨rfl, rfl⟩
  | cons w rest =>
    cases hd : decode w with
    | ok i =>
      rw [step_of_decode hp hd] at h
      exact .inr ⟨i, decodedInstructionsAreWellFormed w i hd, h⟩
    | error e =>
      rw [stepWaitsAndRefusesByName.2 s w rest e hp hd] at h
      cases h

/-! ### Reset -/

/-- Settles O1: the fields of the reset state, where no word waits. -/
theorem resetIsReadyAndEmpty : Obligations.ResetIsReadyAndEmpty :=
  fun _ => ⟨rfl, rfl, rfl, rfl, rfl, rfl, rfl, step_of_pending_nil rfl⟩

/-- The empty queue is no frame at all. -/
theorem outgoingIsWireFrames_nil : OutgoingIsWireFrames [] :=
  ⟨[], [], [], Nat.zero_le _, List.nil_suffix, nofun, rfl⟩

/-- Settles O2: empty queues, no walk, nothing delivered. -/
theorem resetMeetsTheInvariants : Obligations.ResetMeetsTheInvariants :=
  ⟨⟨nil_wf, nil_wf⟩, nofun, outgoingIsWireFrames_nil, ⟨nofun, nofun⟩, .inr rfl, by decide⟩

end Sys2Proof.Machine
end

section
/-! How many bytes a body decodes to (R115; O19). -/

namespace Sys2Proof.Machine

/-- A run gives at most as many bytes as it has in the body, its code byte included (R115). -/
theorem length_runBytes_le (c : Byte) (data rest : List Byte) : (runBytes c data rest).length ≤ data.length + 1 := by
  unfold runBytes
  split
  · exact Nat.le_of_eq List.length_append
  · exact Nat.le_succ _

/-- R115: a body without a delimiter decodes to at most as many bytes as it has. -/
theorem length_le_of_decodeBody_eq_ok {b out : List Byte} {cap : Nat} (hb : ZeroFree b)
    (h : decodeBody b cap = .ok out) : out.length ≤ b.length := by
  match b with
  | [] =>
    cases h
    exact Nat.le_refl _
  | c :: b =>
    obtain ⟨hc, hb⟩ := zeroFree_cons.1 hb
    have hpos : 0 < c.toNat := Nat.pos_of_ne_zero fun h0 => hc (BitVec.eq_of_toNat_eq h0)
    by_cases hover : b.length + 1 < c.toNat
    · rw [decodeBody_overrun cap hover] at h
      cases h
    · obtain ⟨data, rest, rfl, hdata⟩ : ∃ data rest, b = data ++ rest ∧ data.length + 1 = c.toNat := by
        refine ⟨b.take (c.toNat - 1), b.drop (c.toNat - 1), (List.take_append_drop _ _).symm, ?_⟩
        rw [List.length_take]
        omega
      have hrest := (zeroFree_append.1 hb).2
      rw [← List.cons_append, decodeBody_run cap hdata hrest] at h
      split at h
      · cases h
      · cases hr : decodeBody rest (cap - (runBytes c data rest).length) with
        | error e => rw [hr] at h; cases h
        | ok out' =>
          have ih := length_le_of_decodeBody_eq_ok hrest hr
          have hrun := length_runBytes_le c data rest
          rw [hr] at h
          cases h
          simp only [List.length_append, List.length_cons]
          omega
termination_by b.length
decreasing_by
  subst_vars
  simp only [List.length_append, List.length_cons]
  omega

/-- Settles O19: the loop keeps the capacity, and each run its bytes. -/
theorem decodedBytesFitTheCapacity : Obligations.DecodedBytesFitTheCapacity := by
  intro x cap out n h
  obtain ⟨d, hd, rfl⟩ := cobsDecode_consumed h
  obtain ⟨b, t, rfl, hb, rfl⟩ := exists_of_firstZero hd
  rw [cobsDecode_eq_decodeBody t cap hb] at h
  cases hbody : decodeBody b cap with
  | error e => rw [hbody] at h; cases h
  | ok out' =>
    rw [hbody] at h
    cases h
    exact ⟨decodeRuns_length _ hbody (Nat.zero_le _), b, t, rfl, hb, rfl, length_le_of_decodeBody_eq_ok hb hbody⟩

end Sys2Proof.Machine
end

section
/-! Errors and refusals that need no look into an operation: the numerals of the errors (R193; O52), and SENDING (R178;
O50). -/

namespace Sys2Proof.Machine

/-- Settles O52: the three results have their numerals in a range that no other integer result of -32 or more meets. -/
theorem errorOriginIsRecoverable : Obligations.ErrorOriginIsRecoverable := by
  intro num ⟨_, _, _, _, _, _, hparam, hfull, hgeneral⟩ e he
  have hrange : -64 ≤ num e ∧ num e ≤ -33 := by
    obtain rfl | rfl | rfl := he
    · exact hparam
    · exact hfull
    · exact hgeneral
  refine ⟨num e, rfl, hrange.1, hrange.2, fun r hr heq => ?_⟩
  have hnum : r = num e := Option.some.inj heq
  omega

/-- Settles O50: every operation and every symbol asks for the boundary first. -/
theorem nothingStartsInSending : Obligations.NothingStartsInSending := by
  intro i s hs
  cases i with
  | unassigned9 => exact ⟨_, exec_unassigned9 s⟩
  | unassignedAB x => exact ⟨_, exec_unassignedAB x s⟩
  | unassignedCF x => exact ⟨_, exec_unassignedCF x s⟩
  | crcCalc x => exact (exec_crcCalc x s).trans (operation_of_sending _ hs)
  | cobsEnc x cap => exact (exec_cobsEnc x cap s).trans (operation_of_sending _ hs)
  | cobsDec x cap => exact (exec_cobsDec x cap s).trans (operation_of_sending _ hs)
  | linkSend x => exact (exec_linkSend x s).trans (operation_of_sending _ hs)
  | linkRx x => exact (exec_linkRx x s).trans (operation_of_sending _ hs)
  | linkPout r => exact (exec_linkPout r s).trans (operation_of_sending _ hs)
  | linkPin => exact (exec_linkPin s).trans (operation_of_sending _ hs)
  | linkReset => exact (exec_linkReset s).trans (operation_of_sending _ hs)
  | linkMaxpl => exact (exec_linkMaxpl s).trans (operation_of_sending _ hs)
  | frameTypeData => exact unlessSending_of_sending (s := s) _ hs
  | frameTypeReserved b => exact unlessSending_of_sending (s := s) _ hs
  | wireDelimiter => exact unlessSending_of_sending (s := s) _ hs
  | cobsCodeRun c => exact unlessSending_of_sending (s := s) _ hs
  | cobsCodeFull => exact unlessSending_of_sending (s := s) _ hs
  | cobsData b => exact unlessSending_of_sending (s := s) _ hs

end Sys2Proof.Machine
end

section
/-! The wire symbols (R71, R111, R113, R150; log 3): which part of the receive engine a symbol runs, and what each part
answers. -/

namespace Sys2Proof.Machine

variable {s : State} {r : BodyRegs} {f : FrameRegs} {c b : Byte}

/-! ### Where the walk stands -/

theorem exec_cobsCodeRun (hs : s.AtBoundary) (c : Byte) : exec (.cobsCodeRun c) s = inBody (codeByte c) s :=
  unlessSending_of_atBoundary (s := s) _ hs

theorem exec_cobsCodeFull (hs : s.AtBoundary) : exec .cobsCodeFull s = inBody (codeByte 0xFF) s :=
  unlessSending_of_atBoundary (s := s) _ hs

theorem exec_cobsData (hs : s.AtBoundary) (b : Byte) : exec (.cobsData b) s = inBody (dataByte b) s :=
  unlessSending_of_atBoundary (s := s) _ hs

theorem exec_wireDelimiter (hs : s.AtBoundary) : exec .wireDelimiter s = inBody delimiterByte s :=
  unlessSending_of_atBoundary (s := s) _ hs

theorem exec_frameTypeData (hs : s.AtBoundary) : exec .frameTypeData s = typeByte 0x01 s :=
  unlessSending_of_atBoundary (s := s) _ hs

theorem exec_frameTypeReserved (hs : s.AtBoundary) (b : Byte) : exec (.frameTypeReserved b) s = typeByte b s :=
  unlessSending_of_atBoundary (s := s) _ hs

/-- A body symbol runs at the walk's registers, those of a walk in progress or of one that starts. -/
theorem inBody_of_walking (k : BodyRegs → State → Outcome) (h : s.Walking r) : inBody k s = k r s := by
  obtain hw | ⟨hw, hd, hr⟩ := h
  · simp only [inBody, hw]
  · rw [hr]
    simp only [inBody, hw, hd]

/-- R151: no walk and no delimiter. -/
theorem inBody_await (k : BodyRegs → State → Outcome) (hw : s.walk = none) (h : ZeroFree s.incoming) :
    inBody k s = .next s := by
  simp only [inBody, hw, firstZero_of_zeroFree h]

theorem inBody_of_frame (k : BodyRegs → State → Outcome) (h : s.walk = some (.frame f)) :
    inBody k s = .refused .symbolNotHere := by
  simp only [inBody, h]

/-- The engine awaits a delimiter, walks a body, or holds a checked frame. -/
theorem await_or_walking_or_frame (s : State) :
    (s.walk = none ∧ ZeroFree s.incoming) ∨ (∃ r, s.Walking r) ∨ ∃ f, s.walk = some (.frame f) := by
  cases hw : s.walk with
  | none =>
    cases hd : firstZero s.incoming with
    | none => exact .inl ⟨rfl, (firstZero_eq_none_iff _).1 hd⟩
    | some d => exact .inr (.inl ⟨.start d, .inr ⟨hw, hd, rfl⟩⟩)
  | some w =>
    cases w with
    | body r => exact .inr (.inl ⟨r, .inl hw⟩)
    | frame f => exact .inr (.inr ⟨f, rfl⟩)

/-! ### A run -/

/-- A pass that skips needs no receiver (R152). -/
theorem applyVerdict_skip (s : State) : applyVerdict .skip s = .next (Verdict.skip.after s) :=
  applyVerdict_eq_attempt .skip s

theorem endRun_last (s : State) (h : r.c = 0xFF ∨ r.p = r.d) : endRun r s = .next (s.setWalk (.body r)) :=
  if_neg fun hgo => h.elim hgo.1 hgo.2

theorem endRun_zero (s : State) (hc : r.c ≠ 0xFF) (hp : r.p ≠ r.d) (hroom : r.out.length + 1 ≤ 254) :
    endRun r s = .next (s.setWalk (.body { r with out := r.out ++ [0] })) :=
  (if_pos ⟨hc, hp⟩).trans (if_neg (Nat.not_lt.2 hroom))

theorem endRun_noRoom (s : State) (hc : r.c ≠ 0xFF) (hp : r.p ≠ r.d) (hroom : 254 < r.out.length + 1) :
    endRun r s = applyVerdict .skip s :=
  (if_pos ⟨hc, hp⟩).trans (if_pos hroom)

theorem goOn_left (s : State) (h : r.left ≠ 0) : goOn r s = .next (s.setWalk (.body r)) := if_neg h

theorem goOn_done (s : State) (h : r.left = 0) : goOn r s = endRun r s := if_pos h

/-! ### A code byte -/

/-- The code byte `c` stands at the walk's code position. -/
abbrev BodyRegs.AtCode (r : BodyRegs) (q : List Byte) (c : Byte) : Prop :=
  r.left = 0 ∧ r.p < r.d ∧ readByte q r.p = some c

theorem codeByte_elsewhere (h : ¬r.AtCode s.incoming c) : codeByte c r s = .refused .symbolNotHere := if_neg h

theorem codeByte_overrun (h : r.AtCode s.incoming c) (hover : r.d < r.p + c.toNat) :
    codeByte c r s = applyVerdict .skip s :=
  (if_pos h).trans (if_pos hover)

theorem codeByte_noRoom (h : r.AtCode s.incoming c) (hle : r.p + c.toNat ≤ r.d)
    (hroom : 254 < r.out.length + (c.toNat - 1)) : codeByte c r s = applyVerdict .skip s :=
  (if_pos h).trans ((if_neg (Nat.not_lt.2 hle)).trans (if_pos hroom))

theorem codeByte_begins (h : r.AtCode s.incoming c) (hle : r.p + c.toNat ≤ r.d)
    (hroom : r.out.length + (c.toNat - 1) ≤ 254) :
    codeByte c r s = goOn { r with p := r.p + 1, c := c, left := c.toNat - 1 } s :=
  (if_pos h).trans ((if_neg (Nat.not_lt.2 hle)).trans (if_neg (Nat.not_lt.2 hroom)))

/-- A run without data ends with its code byte. -/
theorem codeByte_noData (h : r.AtCode s.incoming 1) (hroom : r.out.length ≤ 254) :
    codeByte 1 r s = endRun { r with p := r.p + 1, c := 1, left := 0 } s :=
  (codeByte_begins h h.2.1 hroom).trans (goOn_done s rfl)

/-! ### A data byte -/

theorem dataByte_elsewhere (h : ¬(r.left ≠ 0 ∧ readByte s.incoming r.p = some b)) :
    dataByte b r s = .refused .symbolNotHere := if_neg h

theorem dataByte_here (hleft : r.left ≠ 0) (hb : readByte s.incoming r.p = some b) :
    dataByte b r s = goOn { r with p := r.p + 1, left := r.left - 1, out := r.out ++ [b] } s :=
  if_pos ⟨hleft, hb⟩

/-- The last data byte ends its run. -/
theorem dataByte_last (hleft : r.left = 1) (hb : readByte s.incoming r.p = some b) :
    dataByte b r s = endRun { r with p := r.p + 1, left := 0, out := r.out ++ [b] } s := by
  have hdone : r.left - 1 = 0 := by omega
  rw [dataByte_here (by omega) hb, hdone]
  exact goOn_done s rfl

/-! ### The delimiter and the TYPE byte -/

theorem delimiterByte_elsewhere (h : ¬(r.left = 0 ∧ r.p = r.d ∧ readByte s.incoming r.d = some 0)) :
    delimiterByte r s = .refused .symbolNotHere := if_neg h

theorem delimiterByte_fails {v : Verdict} (h : r.left = 0 ∧ r.p = r.d ∧ readByte s.incoming r.d = some 0)
    (hv : checkFrame r.out (r.d + 1) = .error v) : delimiterByte r s = applyVerdict v s := by
  rw [delimiterByte, if_pos h, hv]

theorem delimiterByte_passes (h : r.left = 0 ∧ r.p = r.d ∧ readByte s.incoming r.d = some 0)
    (hf : checkFrame r.out (r.d + 1) = .ok f) : delimiterByte r s = .next (s.setWalk (.frame f)) := by
  rw [delimiterByte, if_pos h, hf]

theorem checkFrame_short {decoded : List Byte} (n : Nat) (h : decoded.length < 4) :
    checkFrame decoded n = .error .skip := if_pos h

theorem checkFrame_wrongLength {decoded : List Byte} (n : Nat) (h4 : 4 ≤ decoded.length) (h : ¬RightLength decoded) :
    checkFrame decoded n = .error (.dropFrame n) := by
  have hlen : (decoded.getD 1 0).toNat > 250 ∨ decoded.length ≠ (decoded.getD 1 0).toNat + 4 := by
    simp only [RightLength] at h
    omega
  exact (if_neg (Nat.not_lt.2 h4)).trans (if_pos hlen)

theorem checkFrame_wrongCrc {decoded : List Byte} (n : Nat) (h : RightLength decoded) (hc : ¬RightCrc decoded) :
    checkFrame decoded n = .error (.crcMismatch n) :=
  (checkFrame_rightLength n h).trans (if_pos hc)

theorem checkFrame_passes {decoded : List Byte} (n : Nat) (h : RightLength decoded) (hc : RightCrc decoded) :
    checkFrame decoded n = .ok ⟨decoded, n, decoded.getD 1 0, crc16 (decoded.take (decoded.length - 2)),
      assemble (decoded.getD (decoded.length - 2) 0) (decoded.getD (decoded.length - 1) 0)⟩ :=
  (checkFrame_rightLength n h).trans (if_neg (not_not_intro hc))

/-- Why a decoded body is not passed on (R152 to R155). -/
theorem checkFrame_eq_error {decoded : List Byte} {n : Nat} {v : Verdict} (h : checkFrame decoded n = .error v) :
    v = .skip ∨ v = .dropFrame n ∨ (v = .crcMismatch n ∧ RightLength decoded ∧ ¬RightCrc decoded) := by
  by_cases h4 : decoded.length < 4
  · exact .inl (Except.error.inj (h.symm.trans (checkFrame_short n h4)))
  by_cases hlen : RightLength decoded
  · by_cases hcrc : RightCrc decoded
    · cases h.symm.trans (checkFrame_passes n hlen hcrc)
    · exact .inr (.inr ⟨Except.error.inj (h.symm.trans (checkFrame_wrongCrc n hlen hcrc)), hlen, hcrc⟩)
  · exact .inr (.inl (Except.error.inj (h.symm.trans (checkFrame_wrongLength n (Nat.not_lt.1 h4) hlen))))

/-- A frame that is passed on has a right LENGTH, and its registers are the decoded body's (R29). -/
theorem checkFrame_eq_ok {decoded : List Byte} {n : Nat} (h : checkFrame decoded n = .ok f) :
    RightLength decoded ∧ f.decoded = decoded ∧ f.consumed = n ∧ f.len = decoded.getD 1 0 := by
  by_cases hlen : RightLength decoded
  · by_cases hcrc : RightCrc decoded
    · cases h.symm.trans (checkFrame_passes n hlen hcrc)
      exact ⟨hlen, rfl, rfl, rfl⟩
    · cases h.symm.trans (checkFrame_wrongCrc n hlen hcrc)
  · by_cases h4 : decoded.length < 4
    · cases h.symm.trans (checkFrame_short n h4)
    · cases h.symm.trans (checkFrame_wrongLength n (Nat.not_lt.1 h4) hlen)

theorem typeByte_here (hw : s.walk = some (.frame f)) (hb : f.decoded.head? = some b) :
    typeByte b s = applyVerdict (typeVerdict f) s := by
  simp only [typeByte, hw, hb, if_true]

theorem typeByte_elsewhere (hw : s.walk = some (.frame f)) (hb : f.decoded.head? ≠ some b) :
    typeByte b s = .refused .symbolNotHere := by
  simp only [typeByte, hw, hb, if_false]

theorem typeByte_of_no_frame (b : Byte) (h : ∀ f, s.walk ≠ some (.frame f)) :
    typeByte b s = .refused .symbolNotHere := by
  cases hw : s.walk with
  | none => simp only [typeByte, hw]
  | some w =>
    cases w with
    | body r => simp only [typeByte, hw]
    | frame f => exact absurd hw (h f)

theorem getD_zero_of_head? {q : List Byte} (h : q.head? = some b) : q.getD 0 0 = b := by
  rw [List.head?_eq_getElem?] at h
  rw [List.getD_eq_getElem?_getD, h, Option.getD_some]

theorem typeVerdict_data (h : f.decoded.head? = some 0x01) :
    typeVerdict f = .data f.consumed ((f.decoded.drop 2).take f.len.toNat) := if_pos (getD_zero_of_head? h)

theorem typeVerdict_reserved (h : f.decoded.head? = some b) (hb : b ≠ 0x01) : typeVerdict f = .reserved f.consumed :=
  if_neg fun h1 => hb ((getD_zero_of_head? h).symm.trans h1)

/-! ### The obligations -/

/-- Settles O53: overrun, no room, or the run begins; a run without data ends at once. -/
theorem codeByteBeginsARun : Obligations.CodeByteBeginsARun := by
  intro s r c hs hr _ _ hleft hp hc
  have hcode : r.AtCode s.incoming c := ⟨hleft, hp, hc⟩
  rw [exec_cobsCodeRun hs, inBody_of_walking _ hr]
  refine ⟨codeByte_overrun hcode, codeByte_noRoom hcode, fun hle hroom h2 => ?_, ?_, ?_, ?_⟩
  · rw [codeByte_begins hcode hle hroom]
    exact goOn_left s (by simp only; omega)
  · rintro rfl hroom hlast
    exact (codeByte_noData hcode hroom).trans (endRun_last s (.inr hlast))
  · rintro rfl hroom hmore
    exact (codeByte_noData hcode (Nat.le_succ_of_le hroom)).trans
      (endRun_zero s (by simp only; decide) hmore (Nat.succ_le_succ hroom))
  · rintro rfl hroom hmore
    exact (codeByte_noData hcode (Nat.le_of_eq hroom)).trans
      (endRun_noRoom s (by simp only; decide) hmore (by simp only; omega))

/-- Settles O54: the code byte 0xFF asks for 254 data bytes, which only an empty scratch has room for. -/
theorem fullCodeByteBeginsAFullRun : Obligations.FullCodeByteBeginsAFullRun := by
  intro s r hs hr hleft hp hc
  have hcode : r.AtCode s.incoming 0xFF := ⟨hleft, hp, hc⟩
  rw [exec_cobsCodeFull hs, inBody_of_walking _ hr]
  constructor
  · intro h
    by_cases hover : r.d < r.p + 255
    · exact codeByte_overrun hcode hover
    · have hpos := List.length_pos_iff.2 (h.resolve_left hover)
      refine codeByte_noRoom hcode (Nat.not_lt.1 hover) ?_
      change 254 < r.out.length + 254
      omega
  · intro hle hout
    exact (codeByte_begins hcode hle (by rw [hout]; decide)).trans (goOn_left s (by simp only; decide))

/-- Settles O55: the run goes on, or ends as a run does. -/
theorem dataByteIsCopied : Obligations.DataByteIsCopied := by
  intro s r b hs hr hb
  rw [exec_cobsData hs, inBody_of_walking _ (.inl hr)]
  refine ⟨fun hleft => ?_, fun hleft hend => ?_, fun hleft hc hp hroom => ?_, fun hleft hc hp hroom => ?_⟩
  · rw [dataByte_here (by omega) hb]
    exact goOn_left s (by simp only; omega)
  · exact (dataByte_last hleft hb).trans (endRun_last s hend)
  · refine (dataByte_last hleft hb).trans (endRun_zero s hc hp ?_)
    rw [List.length_append, List.length_singleton]
    exact hroom
  · refine (dataByte_last hleft hb).trans (endRun_noRoom s hc hp ?_)
    rw [List.length_append, List.length_singleton]
    exact hroom

/-- Settles O56: steps 3 to 5 of LINK.PIN on the decoded body. -/
theorem delimiterEndsTheBody : Obligations.DelimiterEndsTheBody := by
  intro s r hs hr hleft hp hread
  have hend := And.intro hleft (And.intro hp hread)
  rw [exec_wireDelimiter hs, inBody_of_walking _ hr]
  refine ⟨fun hshort => ?_, fun h4 hlen => ?_, fun hlen hcrc he => ?_, fun hlen hcrc => ?_⟩
  · exact delimiterByte_fails hend (checkFrame_short _ hshort)
  · exact delimiterByte_fails hend (checkFrame_wrongLength _ h4 hlen)
  · exact (delimiterByte_fails hend (checkFrame_wrongCrc _ hlen hcrc)).trans (applyVerdict_crcMismatch _ he)
  · exact delimiterByte_passes hend (checkFrame_passes _ hlen hcrc)

/-- Settles O57: the verdict is `data`, and both receivers are attached. -/
theorem dataTypeDeliversTheFrame : Obligations.DataTypeDeliversTheFrame := by
  intro s f hs hu he hw hhead
  rw [exec_frameTypeData hs, typeByte_here hw hhead, typeVerdict_data hhead]
  exact applyVerdict_attached _ hu he

/-- Settles O58: the verdict is `reserved`, which makes no transaction. -/
theorem reservedTypeEntersError : Obligations.ReservedTypeEntersError := by
  intro s f b hs hw hhead hb
  rw [exec_frameTypeReserved hs, typeByte_here hw hhead, typeVerdict_reserved hhead hb]
  rfl

/-- Settles O59: the engine awaits a delimiter, holds a frame, holds none, or walks a body where the symbol is not. -/
theorem symbolElsewhereWaitsOrIsRefused : Obligations.SymbolElsewhereWaitsOrIsRefused := by
  intro s c b hs
  rw [exec_cobsCodeRun hs, exec_cobsCodeFull hs, exec_cobsData hs, exec_wireDelimiter hs, exec_frameTypeData hs,
    exec_frameTypeReserved hs]
  refine ⟨fun hw hfree => ?_, fun f hw => ?_, fun hw => ?_, fun r hr => ?_⟩
  · exact ⟨inBody_await _ hw hfree, inBody_await _ hw hfree, inBody_await _ hw hfree, inBody_await _ hw hfree⟩
  · exact ⟨inBody_of_frame _ hw, inBody_of_frame _ hw, inBody_of_frame _ hw, inBody_of_frame _ hw,
      typeByte_elsewhere hw, typeByte_elsewhere hw⟩
  · exact ⟨typeByte_of_no_frame _ hw, typeByte_of_no_frame _ hw⟩
  · have hcode : ∀ c, (r.left ≠ 0 ∨ r.d ≤ r.p ∨ readByte s.incoming r.p ≠ some c) →
        codeByte c r s = .refused .symbolNotHere := fun c h => codeByte_elsewhere fun ⟨hleft, hp, hread⟩ =>
      h.elim (fun h => h hleft) fun h => h.elim (Nat.not_le.2 hp) fun h => h hread
    rw [inBody_of_walking _ hr, inBody_of_walking _ hr, inBody_of_walking _ hr, inBody_of_walking _ hr]
    exact ⟨hcode c, hcode 0xFF,
      fun h => dataByte_elsewhere fun ⟨hleft, hread⟩ => h.elim hleft fun h => h hread,
      fun h => delimiterByte_elsewhere fun ⟨hleft, hp, hread⟩ =>
        h.elim (fun h => h hleft) fun h => h.elim (fun h => h hp) fun h => h hread⟩

end Sys2Proof.Machine
end

section
/-! Everything a completed instruction can have done, once: one case for each way through the operations and the
symbols. Every statement about all instructions goes through these cases. -/

namespace Sys2Proof.Machine

variable {s t : State} {i : Instr} {r : BodyRegs}

/-! ### The cases -/

/-- The symbols that run at a point of a body (R70, R73). -/
def IsBodySymbol : Instr → Prop
  | .wireDelimiter | .cobsCodeRun _ | .cobsCodeFull | .cobsData _ => True
  | _ => False

/-- The operations that may have this result as their one effect. -/
def MayAnswer : Instr → OpResult → Prop
  | .crcCalc _, _ | .cobsEnc _ _, _ | .cobsDec _ _, _ | .linkPout _, _ | .linkMaxpl, _ => True
  | .linkSend _, a | .linkRx _, a => a = .err .invalidParam
  | _, _ => False

/-- `Completes s i t`: from `s` the instruction `i` may complete in `t`. -/
inductive Completes (s : State) : Instr → State → Prop
  | answers {i : Instr} {a : OpResult} (hi : MayAnswer i a) : Completes s i (s.answered a)
  | sendFails {p : List Byte} {e : ErrName} (hp : p.length ≤ 250) : Completes s (.linkSend (.bytes p))
      { s with linkState := .ready, walk := none, outputs := s.outputs ++ [.result (.err e)] }
  | sends {p : List Byte} (hp : p.length ≤ 250) (hfit : fits s.outgoing (wire p)) :
      Completes s (.linkSend (.bytes p)) (s.sent p)
  | transmits {a : Int} (hl : s.linkState = .ready) (ha : a ≤ s.submission.length) :
      Completes s (.linkPout a) (s.transmitted a)
  | overflows {x : List Byte} : Completes s (.linkRx (.bytes x))
      { s with incoming := [], walk := none, outputs := s.outputs ++ [.result (.err .bufferFull)] }
  | deposits {x : List Byte} (hfit : fits s.incoming x) : Completes s (.linkRx (.bytes x)) (s.deposited x)
  | pins : Completes s .linkPin (s.pinned.pushResult (.int 0))
  | resets : Completes s .linkReset { s with
      linkState := .ready, outgoing := [], incoming := [], walk := none
      outputs := s.outputs ++ [.result .noResult] }
  | awaits {i : Instr} (hi : IsBodySymbol i) : Completes s i s
  | walks {i : Instr} {r : BodyRegs} {w : Walk} (hi : IsBodySymbol i) (hr : s.Walking r)
      (hw : Walk.Agrees s.incoming (.body r) → w.Agrees s.incoming) : Completes s i (s.setWalk w)
  | skips {i : Instr} (hi : IsBodySymbol i) : Completes s i (Verdict.skip.after s)
  | concludes {r : BodyRegs} {v : Verdict} (hr : s.Walking r) (hv : checkFrame r.out (r.d + 1) = .error v) :
      Completes s .wireDelimiter (v.after s)
  | delivers {i : Instr} {f : FrameRegs} (hi : i = .frameTypeData ∨ i = .frameTypeReserved 0x01)
      (hw : s.walk = some (.frame f)) :
      Completes s i ((Verdict.data f.consumed ((f.decoded.drop 2).take f.len.toNat)).after s)
  | rejects {f : FrameRegs} {b : Byte} (hw : s.walk = some (.frame f)) (hhead : f.decoded.head? = some b)
      (hb : b ≠ 0x01) : Completes s (.frameTypeReserved b) ((Verdict.reserved f.consumed).after s)

/-! ### The operations -/

/-- What completes has started outside SENDING (R178). -/
theorem atBoundary_of_exec (h : exec i s = .next t) : s.AtBoundary := by
  intro hs
  have hno := nothingStartsInSending i s hs
  rw [h] at hno
  split at hno
  · obtain ⟨op, hop⟩ := hno; cases hop
  · obtain ⟨op, hop⟩ := hno; cases hop
  · obtain ⟨op, hop⟩ := hno; cases hop
  · cases hno

/-- An outcome that is known is the one the instruction completed in. -/
theorem completes_of_eq {u : State} (h : exec i s = .next t) (hu : exec i s = .next u) (hc : Completes s i u) :
    Completes s i t :=
  Host.Outcome.next.inj (hu.symm.trans h) ▸ hc

theorem completes_cobsEnc {x : Option (List Byte)} {cap : Nat} (h : exec (.cobsEnc x cap) s = .next t) :
    Completes s (.cobsEnc x cap) t := by
  have hs := atBoundary_of_exec h
  cases x with
  | none => exact completes_of_eq h (exec_cobsEnc_null hs cap) (.answers trivial)
  | some x =>
    by_cases hroom : x = [] ∧ cap = 0
    · obtain ⟨rfl, rfl⟩ := hroom
      cases h.symm.trans (exec_cobsEnc_nil_zero hs)
    cases he : cobsEncode x cap with
    | ok out => exact completes_of_eq h (exec_cobsEnc_of_ok hs he) (.answers trivial)
    | error e => exact completes_of_eq h (exec_cobsEnc_of_error hs hroom he) (.answers trivial)

theorem completes_cobsDec {x : Option (List Byte)} {cap : Nat} (h : exec (.cobsDec x cap) s = .next t) :
    Completes s (.cobsDec x cap) t := by
  have hs := atBoundary_of_exec h
  cases x with
  | none => exact completes_of_eq h (exec_cobsDec_null hs cap) (.answers trivial)
  | some x =>
    cases hd : cobsDecode x cap with
    | ok o => exact completes_of_eq h (exec_cobsDec_of_ok hs hd) (.answers trivial)
    | error e => exact completes_of_eq h (exec_cobsDec_of_error hs hd) (.answers trivial)

theorem completes_linkSend {x : SeqArg} (h : exec (.linkSend x) s = .next t) : Completes s (.linkSend x) t := by
  have hs := atBoundary_of_exec h
  cases x with
  | null n => exact completes_of_eq h (exec_linkSend_null hs n) (.answers rfl)
  | bytes p =>
    by_cases hlong : 250 < p.length
    · exact completes_of_eq h (exec_linkSend_long hs hlong) (.answers rfl)
    have hp := Nat.not_lt.1 hlong
    by_cases hsmall : s.params.encCap < encBound (p.length + 4)
    · exact completes_of_eq h (exec_linkSend_general hs hp hsmall) (.sendFails hp)
    have hc := Nat.not_lt.1 hsmall
    by_cases hfit : fits s.outgoing (wire p)
    · rw [exec_linkSend_queued hs hp hc hfit] at h
      exact Wiring.eq_of_attempt_eq_next h ▸ .sends hp hfit
    · exact completes_of_eq h (exec_linkSend_full hs hp hc hfit) (.sendFails hp)

theorem completes_linkRx {x : SeqArg} (h : exec (.linkRx x) s = .next t) : Completes s (.linkRx x) t := by
  have hs := atBoundary_of_exec h
  cases x with
  | null n => exact completes_of_eq h (exec_linkRx_null hs n) (.answers rfl)
  | bytes x =>
    by_cases hfit : fits s.incoming x
    · rw [exec_linkRx_fits hs hfit] at h
      exact Wiring.eq_of_attempt_eq_next h ▸ .deposits hfit
    · exact completes_of_eq h (exec_linkRx_overflow hs hfit) .overflows

theorem completes_linkPout {a : Int} (h : exec (.linkPout a) s = .next t) : Completes s (.linkPout a) t := by
  by_cases hheld : s.outgoing = [] ∨ s.linkState ≠ .ready
  · exact completes_of_eq h (exec_linkPout_held (atBoundary_of_exec h) a hheld) (.answers trivial)
  · obtain ⟨hq, hl⟩ := not_or.1 hheld
    have hl := Decidable.not_not.1 hl
    obtain ⟨-, ha, rfl⟩ := (exec_linkPout_eq_next hl hq).1 h
    exact .transmits hl ha

theorem completes_linkPin (h : exec .linkPin s = .next t) : Completes s .linkPin t := by
  rw [exec_linkPin_eq_attempt (atBoundary_of_exec h)] at h
  exact Wiring.eq_of_attempt_eq_next h ▸ .pins

/-! ### The symbols of a body -/

/-- A symbol of a body waits, or runs at the registers of the walk. -/
theorem inBody_eq_next {k : BodyRegs → State → Outcome} (h : inBody k s = .next t) :
    t = s ∨ ∃ r, s.Walking r ∧ k r s = .next t := by
  obtain ⟨hw, hfree⟩ | ⟨r, hr⟩ | ⟨f, hf⟩ := await_or_walking_or_frame s
  · rw [inBody_await k hw hfree] at h
    cases h
    exact .inl rfl
  · rw [inBody_of_walking k hr] at h
    exact .inr ⟨r, hr, h⟩
  · rw [inBody_of_frame k hf] at h
    cases h

/-- What a symbol of a run leaves: the queue without its head, or registers that agree with the queue if `r` do. -/
def RunLeaves (s : State) (r : BodyRegs) (t : State) : Prop :=
  t = Verdict.skip.after s ∨
    ∃ r', t = s.setWalk (.body r') ∧ (Walk.Agrees s.incoming (.body r) → Walk.Agrees s.incoming (.body r'))

/-- The implicit zero needs its room, and a run that is over leaves room for nothing else. -/
theorem endRun_eq_next (hleft : r.left = 0) (h : endRun r s = .next t) : RunLeaves s r t := by
  by_cases hend : r.c = 0xFF ∨ r.p = r.d
  · rw [endRun_last s hend] at h
    cases h
    exact .inr ⟨r, rfl, id⟩
  obtain ⟨hc, hp⟩ := not_or.1 hend
  by_cases hroom : r.out.length + 1 ≤ 254
  · rw [endRun_zero s hc hp hroom] at h
    cases h
    refine .inr ⟨_, rfl, fun ⟨hd, hle, _⟩ => ⟨hd, hle, ?_⟩⟩
    simp only [List.length_append, List.length_singleton, hleft, Config.linkMaxFrameSize]
    omega
  · rw [endRun_noRoom s hc hp (Nat.not_le.1 hroom)] at h
    exact .inl (applyVerdict_next h)

theorem goOn_eq_next (h : goOn r s = .next t) : RunLeaves s r t := by
  by_cases hleft : r.left = 0
  · rw [goOn_done s hleft] at h
    exact endRun_eq_next hleft h
  · rw [goOn_left s hleft] at h
    cases h
    exact .inr ⟨r, rfl, id⟩

/-- The registers may be changed first, if that keeps them in agreement. -/
theorem RunLeaves.of_agrees {r' : BodyRegs} (h : RunLeaves s r' t)
    (hr : Walk.Agrees s.incoming (.body r) → Walk.Agrees s.incoming (.body r')) : RunLeaves s r t :=
  h.imp_right fun ⟨r'', ht, h''⟩ => ⟨r'', ht, h'' ∘ hr⟩

theorem codeByte_eq_next {c : Byte} (h : codeByte c r s = .next t) : RunLeaves s r t := by
  by_cases hcode : r.AtCode s.incoming c
  · by_cases hover : r.d < r.p + c.toNat
    · rw [codeByte_overrun hcode hover] at h
      exact .inl (applyVerdict_next h)
    by_cases hroom : 254 < r.out.length + (c.toNat - 1)
    · rw [codeByte_noRoom hcode (Nat.not_lt.1 hover) hroom] at h
      exact .inl (applyVerdict_next h)
    rw [codeByte_begins hcode (Nat.not_lt.1 hover) (Nat.not_lt.1 hroom)] at h
    have hlt := hcode.2.1
    refine (goOn_eq_next h).of_agrees fun ⟨hd, _, _⟩ => ⟨hd, ?_, Nat.not_lt.1 hroom⟩
    simp only
    omega
  · rw [codeByte_elsewhere hcode] at h
    cases h

theorem dataByte_eq_next {b : Byte} (h : dataByte b r s = .next t) : RunLeaves s r t := by
  by_cases hdata : r.left ≠ 0 ∧ readByte s.incoming r.p = some b
  · rw [dataByte_here hdata.1 hdata.2] at h
    have hleft := hdata.1
    refine (goOn_eq_next h).of_agrees fun ⟨hd, hp, hout⟩ => ⟨hd, ?_, ?_⟩
    · simp only
      omega
    · simp only [List.length_append, List.length_singleton] at *
      omega
  · rw [dataByte_elsewhere hdata] at h
    cases h

/-- A symbol of a run, whichever it is. -/
theorem completes_of_inBody {k : BodyRegs → State → Outcome} (hi : IsBodySymbol i) (h : inBody k s = .next t)
    (hk : ∀ r, k r s = .next t → RunLeaves s r t) : Completes s i t := by
  obtain rfl | ⟨r, hr, hkr⟩ := inBody_eq_next h
  · exact .awaits hi
  obtain rfl | ⟨r', rfl, hagree⟩ := hk r hkr
  · exact .skips hi
  · exact .walks hi hr hagree

/-- The frame that passed the checks keeps its bytes, and the queue's first delimiter is its last byte. -/
theorem agrees_frame {f : FrameRegs} (hf : checkFrame r.out (r.d + 1) = .ok f) (hleft : r.left = 0)
    (h : Walk.Agrees s.incoming (.body r)) : Walk.Agrees s.incoming (.frame f) := by
  obtain ⟨hd, -, hout⟩ := h
  obtain ⟨-, hdecoded, hconsumed, -⟩ := checkFrame_eq_ok hf
  simp only [Walk.Agrees, hdecoded, hconsumed]
  exact ⟨hd, Nat.le_add_left _ _, by omega, hf⟩

theorem completes_wireDelimiter (h : exec .wireDelimiter s = .next t) : Completes s .wireDelimiter t := by
  rw [exec_wireDelimiter (atBoundary_of_exec h)] at h
  obtain rfl | ⟨r, hr, hk⟩ := inBody_eq_next h
  · exact .awaits trivial
  by_cases hend : r.left = 0 ∧ r.p = r.d ∧ readByte s.incoming r.d = some 0
  · cases hf : checkFrame r.out (r.d + 1) with
    | error v =>
      rw [delimiterByte_fails hend hf] at hk
      exact applyVerdict_next hk ▸ .concludes hr hf
    | ok f =>
      rw [delimiterByte_passes hend hf] at hk
      cases hk
      exact .walks trivial hr (agrees_frame hf hend.1)
  · rw [delimiterByte_elsewhere hend] at hk
    cases hk

/-! ### The TYPE byte -/

theorem typeByte_eq_next {b : Byte} (h : typeByte b s = .next t) :
    ∃ f, s.walk = some (.frame f) ∧ f.decoded.head? = some b ∧ t = (typeVerdict f).after s := by
  by_cases hw : ∃ f, s.walk = some (.frame f)
  · obtain ⟨f, hw⟩ := hw
    by_cases hhead : f.decoded.head? = some b
    · rw [typeByte_here hw hhead] at h
      exact ⟨f, hw, hhead, applyVerdict_next h⟩
    · rw [typeByte_elsewhere hw hhead] at h
      cases h
  · rw [typeByte_of_no_frame b fun f hf => hw ⟨f, hf⟩] at h
    cases h

theorem completes_frameTypeData (h : exec .frameTypeData s = .next t) : Completes s .frameTypeData t := by
  rw [exec_frameTypeData (atBoundary_of_exec h)] at h
  obtain ⟨f, hw, hhead, rfl⟩ := typeByte_eq_next h
  rw [typeVerdict_data hhead]
  exact .delivers (.inl rfl) hw

theorem completes_frameTypeReserved {b : Byte} (h : exec (.frameTypeReserved b) s = .next t) :
    Completes s (.frameTypeReserved b) t := by
  rw [exec_frameTypeReserved (atBoundary_of_exec h)] at h
  obtain ⟨f, hw, hhead, rfl⟩ := typeByte_eq_next h
  by_cases hb : b = 0x01
  · subst hb
    rw [typeVerdict_data hhead]
    exact .delivers (.inr rfl) hw
  · rw [typeVerdict_reserved hhead hb]
    exact .rejects hw hhead hb

/-! ### All instructions -/

/-- Whatever completes, completes in one of these ways. -/
theorem completes_of_exec (h : exec i s = .next t) : Completes s i t := by
  have hs := atBoundary_of_exec h
  cases i with
  | crcCalc x => exact completes_of_eq h (crcCalcAnswersTheChecksum x s hs) (.answers trivial)
  | cobsEnc x cap => exact completes_cobsEnc h
  | cobsDec x cap => exact completes_cobsDec h
  | linkSend x => exact completes_linkSend h
  | linkRx x => exact completes_linkRx h
  | linkPout a => exact completes_linkPout h
  | linkPin => exact completes_linkPin h
  | linkReset => exact completes_of_eq h (exec_linkReset_eq_next hs) .resets
  | linkMaxpl => exact completes_of_eq h (exec_linkMaxpl_eq_next hs) (.answers trivial)
  | unassigned9 => cases (exec_unassigned9 s).symm.trans h
  | unassignedAB x => cases (exec_unassignedAB x s).symm.trans h
  | unassignedCF x => cases (exec_unassignedCF x s).symm.trans h
  | frameTypeData => exact completes_frameTypeData h
  | frameTypeReserved b => exact completes_frameTypeReserved h
  | wireDelimiter => exact completes_wireDelimiter h
  | cobsCodeRun c =>
    exact completes_of_inBody trivial ((exec_cobsCodeRun hs c).symm.trans h) fun _ => codeByte_eq_next
  | cobsCodeFull =>
    exact completes_of_inBody trivial ((exec_cobsCodeFull hs).symm.trans h) fun _ => codeByte_eq_next
  | cobsData b =>
    exact completes_of_inBody trivial ((exec_cobsData hs b).symm.trans h) fun _ => dataByte_eq_next

/-- An invariant of the step: what no operation or symbol breaks, and taking a word does not touch. -/
theorem step_keeps {P : State → Prop} (hpop : ∀ s, P s → P s.popPending)
    (hkeep : ∀ {i s t}, s.AtBoundary → Completes s i t → P s → P t) (hs : P s) (h : step s = .next t) : P t := by
  obtain ⟨-, rfl⟩ | ⟨i, -, hexec⟩ := step_eq_next h
  · exact hs
  · exact hkeep (atBoundary_of_exec hexec) (completes_of_exec hexec) (hpop s hs)

end Sys2Proof.Machine
end

section
/-! What every step keeps (R22, R28, R37, R158, R198; O41 to O45). -/

namespace Sys2Proof.Machine

variable {s t : State} {i : Instr}

/-! ### What LINK.PIN leaves in `link_state` and outputs -/

/-- The last examined frame alone decides `link_state` (R176). -/
theorem foldl_frameState (l : LinkState) (ds : List (List Byte)) :
    ds.foldl frameState l = match ds.getLast? with
      | none => l
      | some d => if Deliverable d then .ready else .error := by
  cases h : ds.getLast? with
  | none =>
    rw [List.getLast?_eq_none_iff.1 h]
    rfl
  | some d =>
    obtain ⟨ds', rfl⟩ := List.getLast?_eq_some_iff.1 h
    rw [List.foldl_append]
    rfl

/-- LINK.PIN never leaves SENDING. -/
theorem foldl_frameState_ne_sending {l : LinkState} (hl : l ≠ .sending) (ds : List (List Byte)) :
    ds.foldl frameState l ≠ .sending := by
  rw [foldl_frameState]
  split
  · exact hl
  · split <;> nofun

/-- What the examined frames deliver (R156). -/
theorem filterMap_asDelivery_frameOutputs (ds : List (List Byte)) :
    (ds.flatMap frameOutputs).filterMap Output.asDelivery = (ds.filter fun d => Deliverable d).map payloadOf := by
  induction ds with
  | nil => rfl
  | cons d ds ih =>
    rw [List.flatMap_cons, List.filterMap_append, ih]
    by_cases hc : RightCrc d
    · by_cases ht : d.getD 0 0 = 0x01
      · rw [frameOutputs_deliverable ⟨hc, ht⟩, List.filter_cons_of_pos (by exact decide_eq_true ⟨hc, ht⟩)]
        rfl
      · rw [frameOutputs_reserved hc ht, List.filter_cons_of_neg (by simpa using fun _ => ht)]
        rfl
    · rw [frameOutputs_wrongCrc hc, List.filter_cons_of_neg (by simpa using fun h => absurd h hc)]
      rfl

/-! ### A frame that fails its checks -/

/-- A body that fails its checks outputs nothing or one CRC_ERROR (R155). -/
theorem outputs_of_checkFrame_error {decoded : List Byte} {n : Nat} {v : Verdict}
    (h : checkFrame decoded n = .error v) : v.outputs = [] ∨ v.outputs = [.event .crcError] := by
  obtain rfl | rfl | ⟨rfl, -, -⟩ := checkFrame_eq_error h
  · exact .inl rfl
  · exact .inl rfl
  · exact .inr rfl

/-- A frame that passed its checks has a LENGTH within the largest payload (R153). -/
theorem len_le_of_checkFrame_ok {decoded : List Byte} {n : Nat} {f : FrameRegs} (h : checkFrame decoded n = .ok f) :
    f.len.toNat ≤ 250 := by
  obtain ⟨hlen, -, -, hf⟩ := checkFrame_eq_ok h
  exact hf ▸ hlen.2.1

/-! ### The queues' capacity -/

/-- Settles O41: appends are under the room test, and everything else shortens a queue or leaves it. -/
theorem stepKeepsTheQueueCapacity : Obligations.StepKeepsTheQueueCapacity := by
  intro s t hs h
  refine step_keeps (P := State.QueuesFit) (fun _ h => h) (fun _ hc ⟨hout, hin⟩ => ?_) hs h
  cases hc with
  | answers => exact ⟨hout, hin⟩
  | sendFails => exact ⟨hout, hin⟩
  | sends _ hfit => exact ⟨append_wf hfit, hin⟩
  | transmits => exact ⟨drop_wf _ hout, hin⟩
  | overflows => exact ⟨hout, nil_wf⟩
  | deposits hfit => exact ⟨hout, append_wf hfit⟩
  | pins => exact ⟨hout, Nat.le_trans (length_afterLastZero_le _) hin⟩
  | resets => exact ⟨nil_wf, nil_wf⟩
  | awaits => exact ⟨hout, hin⟩
  | walks => exact ⟨hout, hin⟩
  | skips => exact ⟨hout, drop_wf _ hin⟩
  | concludes => exact ⟨hout, drop_wf _ hin⟩
  | delivers => exact ⟨hout, drop_wf _ hin⟩
  | rejects => exact ⟨hout, drop_wf _ hin⟩

/-! ### The outgoing wire frames -/

/-- Head removal cuts the first frame, or removes it and cuts the rest (R49). -/
theorem outgoingIsWireFrames_drop {q : List Byte} (k : Nat) (h : OutgoingIsWireFrames q) :
    OutgoingIsWireFrames (q.drop k) := by
  obtain ⟨first, rest, ps, hfirst, hrest, hps, rfl⟩ := h
  induction ps generalizing first rest k with
  | nil =>
    rw [List.map_nil, List.flatten_nil, List.append_nil]
    exact ⟨first, rest.drop k, [], hfirst, (List.drop_suffix k rest).trans hrest, nofun, (List.append_nil _).symm⟩
  | cons p ps ih =>
    obtain ⟨hp, hps'⟩ := List.forall_mem_cons.1 hps
    by_cases hk : k ≤ rest.length
    · rw [List.drop_append_of_le_length hk]
      exact ⟨first, rest.drop k, p :: ps, hfirst, (List.drop_suffix k rest).trans hrest, hps, rfl⟩
    · rw [List.drop_append, List.drop_eq_nil_of_le (Nat.le_of_not_le hk), List.nil_append, List.map_cons,
        List.flatten_cons]
      exact ih (k - rest.length) p (wire p) hp List.suffix_rfl hps'

/-- A whole frame at the end (R125). -/
theorem outgoingIsWireFrames_append {q p : List Byte} (hp : p.length ≤ 250) (h : OutgoingIsWireFrames q) :
    OutgoingIsWireFrames (q ++ wire p) := by
  obtain ⟨first, rest, ps, hfirst, hrest, hps, rfl⟩ := h
  refine ⟨first, rest, ps ++ [p], hfirst, hrest, List.forall_mem_append.2 ⟨hps, List.forall_mem_singleton.2 hp⟩, ?_⟩
  simp only [List.map_append, List.flatten_append, List.map_cons, List.map_nil, List.flatten_cons, List.flatten_nil,
    List.append_nil, List.append_assoc]

/-- Settles O43: LINK.SEND appends one frame, LINK.POUT removes a head, LINK.RESET empties, and nothing else writes. -/
theorem stepKeepsTheOutgoingWireFrames : Obligations.StepKeepsTheOutgoingWireFrames := by
  intro s t hs h
  refine step_keeps (P := fun s => OutgoingIsWireFrames s.outgoing) (fun _ h => h) (fun _ hc hq => ?_) hs h
  cases hc with
  | answers => exact hq
  | sendFails => exact hq
  | sends hp => exact outgoingIsWireFrames_append hp hq
  | transmits => exact outgoingIsWireFrames_drop _ hq
  | overflows => exact hq
  | deposits => exact hq
  | pins => exact hq
  | resets => exact outgoingIsWireFrames_nil
  | awaits => exact hq
  | walks => exact hq
  | skips => exact hq
  | concludes => exact hq
  | delivers => exact hq
  | rejects => exact hq

/-! ### The walk -/

/-- With no walk, only the new deliveries count. -/
theorem walkAgrees_of_outputs {l : List Output} (hs : s.WalkAgrees) (hw : t.walk = none)
    (hl : t.outputs = s.outputs ++ l) (hnew : ∀ x ∈ l.filterMap Output.asDelivery, x.length ≤ 250) : t.WalkAgrees := by
  refine ⟨fun _ h => (nomatch hw.symm.trans h), ?_⟩
  rw [State.delivered_of_outputs hl]
  exact List.forall_mem_append.2 ⟨hs.2, hnew⟩

/-- The registers of a walk that starts agree with the queue (R113). -/
theorem agrees_of_walking {r : BodyRegs} (hs : s.WalkAgrees) (hr : s.Walking r) :
    Walk.Agrees s.incoming (.body r) := by
  obtain hw | ⟨-, hd, hr⟩ := hr
  · exact hs.1 _ hw
  · rw [hr]
    exact ⟨hd, Nat.zero_le _, Nat.zero_le _⟩

/-- Settles O44: an operation ends the walk, a symbol of a run keeps its agreement, and a frame that is delivered has
passed its checks. -/
theorem stepKeepsTheWalkInAgreement : Obligations.StepKeepsTheWalkInAgreement := by
  intro s t hs h
  refine step_keeps (P := State.WalkAgrees) (fun _ h => h) (fun _ hc hs => ?_) hs h
  cases hc with
  | answers => exact walkAgrees_of_outputs hs rfl rfl nofun
  | sendFails => exact walkAgrees_of_outputs hs rfl rfl nofun
  | sends => exact walkAgrees_of_outputs hs rfl rfl nofun
  | transmits => exact walkAgrees_of_outputs hs rfl rfl nofun
  | overflows => exact walkAgrees_of_outputs hs rfl rfl nofun
  | deposits => exact walkAgrees_of_outputs hs rfl rfl nofun
  | pins =>
    refine walkAgrees_of_outputs hs rfl (List.append_assoc _ _ _) ?_
    rw [List.filterMap_append, filterMap_asDelivery_frameOutputs]
    refine List.forall_mem_append.2 ⟨fun x hx => ?_, nofun⟩
    obtain ⟨d, hd, rfl⟩ := List.mem_map.1 hx
    exact length_payloadOf_of_mem_framesIn (List.mem_filter.1 hd).1
  | resets => exact walkAgrees_of_outputs hs rfl rfl nofun
  | awaits => exact hs
  | walks _ hr hw =>
    refine ⟨fun w h => ?_, hs.2⟩
    cases h
    exact hw (agrees_of_walking hs hr)
  | skips => exact walkAgrees_of_outputs hs rfl rfl nofun
  | concludes _ hv =>
    refine walkAgrees_of_outputs hs rfl rfl ?_
    obtain hout | hout := outputs_of_checkFrame_error hv
    · rw [hout]; nofun
    · rw [hout]; nofun
  | delivers _ hw =>
    refine walkAgrees_of_outputs hs rfl rfl (List.forall_mem_singleton.2 ?_)
    obtain ⟨-, -, -, hcheck⟩ := hs.1 _ hw
    exact Nat.le_trans (List.length_take_le _ _) (len_le_of_checkFrame_ok hcheck)
  | rejects => exact walkAgrees_of_outputs hs rfl rfl nofun

/-! ### The boundary -/

/-- A pass leaves SENDING alone. -/
theorem leaves_ne_sending (v : Verdict) {l : LinkState} (hl : l ≠ .sending) : v.leaves l ≠ .sending := by
  cases v with
  | skip => exact hl
  | dropFrame n => exact hl
  | crcMismatch n => nofun
  | data n payload => nofun
  | reserved n => nofun

/-- Settles O42: LINK.POUT leaves READY as it found it, and nothing else enters SENDING. -/
theorem stepNeverEndsInSending : Obligations.StepNeverEndsInSending := by
  intro s t hs h
  refine step_keeps (P := State.AtBoundary) (fun _ h => h) (fun _ hc hs => ?_) hs h
  cases hc with
  | answers => exact hs
  | sendFails => nofun
  | sends => nofun
  | transmits => exact hs
  | overflows => exact hs
  | deposits => exact hs
  | pins => exact foldl_frameState_ne_sending hs _
  | resets => nofun
  | awaits => exact hs
  | walks => exact hs
  | skips => exact hs
  | concludes => exact leaves_ne_sending _ hs
  | delivers => nofun
  | rejects => nofun

/-! ### The output -/

/-- The output grows at its end, and what an operation cannot write stays (R198, R223; log 2, log 9, log 10). -/
structure GrowsFrom (s t : State) : Prop where
  outputs : ∃ l, t.outputs = s.outputs ++ l
  params : t.params = s.params
  wiring : t.wiring = s.wiring
  pending : t.pending = s.pending

theorem Completes.growsFrom (hc : Completes s i t) : GrowsFrom s t := by
  cases hc with
  | answers => exact ⟨⟨_, rfl⟩, rfl, rfl, rfl⟩
  | sendFails => exact ⟨⟨_, rfl⟩, rfl, rfl, rfl⟩
  | sends => exact ⟨⟨_, rfl⟩, rfl, rfl, rfl⟩
  | transmits => exact ⟨⟨_, rfl⟩, rfl, rfl, rfl⟩
  | overflows => exact ⟨⟨_, rfl⟩, rfl, rfl, rfl⟩
  | deposits => exact ⟨⟨_, rfl⟩, rfl, rfl, rfl⟩
  | pins => exact ⟨⟨_, List.append_assoc _ _ _⟩, rfl, rfl, rfl⟩
  | resets => exact ⟨⟨_, rfl⟩, rfl, rfl, rfl⟩
  | awaits => exact ⟨⟨[], (List.append_nil _).symm⟩, rfl, rfl, rfl⟩
  | walks => exact ⟨⟨[], (List.append_nil _).symm⟩, rfl, rfl, rfl⟩
  | skips => exact ⟨⟨_, rfl⟩, rfl, rfl, rfl⟩
  | concludes => exact ⟨⟨_, rfl⟩, rfl, rfl, rfl⟩
  | delivers => exact ⟨⟨_, rfl⟩, rfl, rfl, rfl⟩
  | rejects => exact ⟨⟨_, rfl⟩, rfl, rfl, rfl⟩

/-- Settles O45: a step waits with no word to take, or runs an instruction after its word is taken. -/
theorem outputsOnlyGrow : Obligations.OutputsOnlyGrow := by
  intro s t h
  obtain ⟨hp, rfl⟩ | ⟨i, -, hexec⟩ := step_eq_next h
  · exact ⟨⟨[], List.append_nil _⟩, rfl, rfl, by rw [hp, List.tail_nil]⟩
  · obtain ⟨⟨l, hl⟩, hparams, hwiring, hpending⟩ := (completes_of_exec hexec).growsFrom
    exact ⟨⟨l, hl.symm⟩, hparams, hwiring, hpending⟩

end Sys2Proof.Machine
end

section
/-! Which instruction may write what: the queues, `link_state`, the events, the deliveries and the downward calls (R33,
R137, R177, R196, R203; O27 and O46 to O49). -/

namespace Sys2Proof.Machine

variable {s t : State} {i : Instr}

/-! ### The views of the output, for outputs of no interest to them -/

theorem delivered_eq_of_outputs {l : List Output} (hl : t.outputs = s.outputs ++ l)
    (h : l.filterMap Output.asDelivery = []) : t.delivered = s.delivered := by
  rw [State.delivered_of_outputs hl, h, List.append_nil]

theorem phyCalls_eq_of_outputs {l : List Output} (hl : t.outputs = s.outputs ++ l)
    (h : l.filterMap Output.asPhyCall = []) : t.phyCalls = s.phyCalls := by
  rw [State.phyCalls_of_outputs hl, h, List.append_nil]

theorem results_ne_of_error {e : ErrName} (hl : t.outputs = s.outputs ++ [.result (.err e)]) :
    t.results ≠ s.results ++ [.int 0] := by
  rw [State.results_of_outputs hl]
  exact fun h => nomatch List.append_cancel_left h

theorem results_eq_of_event {ev : Event} (hl : t.outputs = s.outputs ++ [.event ev, .result (.int 0)]) :
    t.results = s.results ++ [.int 0] :=
  State.results_of_outputs hl

/-! ### What examined frames output -/

/-- A frame of wrong CRC, one that is delivered, and one of a reserved TYPE (R154 to R157). -/
theorem frame_cases (d : List Byte) : ¬RightCrc d ∨ Deliverable d ∨ (RightCrc d ∧ d.getD 0 0 ≠ 0x01) := by
  by_cases hc : RightCrc d
  · by_cases ht : d.getD 0 0 = 0x01
    · exact .inr (.inl ⟨hc, ht⟩)
    · exact .inr (.inr ⟨hc, ht⟩)
  · exact .inl hc

theorem filterMap_asPhyCall_frameOutputs (ds : List (List Byte)) :
    (ds.flatMap frameOutputs).filterMap Output.asPhyCall = [] := by
  rw [List.filterMap_flatMap, List.flatMap_eq_nil_iff]
  intro d _
  obtain hd | hd | ⟨hc, ht⟩ := frame_cases d
  · rw [frameOutputs_wrongCrc hd]; rfl
  · rw [frameOutputs_deliverable hd]; rfl
  · rw [frameOutputs_reserved hc ht]; rfl

/-- The events of examined frames (R155, R156). -/
def frameEvents (ds : List (List Byte)) : List Event := (ds.flatMap frameOutputs).filterMap Output.asEvent

theorem frameEvents_cons (d : List Byte) (ds : List (List Byte)) :
    frameEvents (d :: ds) = (frameOutputs d).filterMap Output.asEvent ++ frameEvents ds := by
  rw [frameEvents, List.flatMap_cons, List.filterMap_append, frameEvents]

/-- One CRC_ERROR for each frame of wrong CRC. -/
theorem count_crcError_frameEvents (ds : List (List Byte)) :
    (frameEvents ds).count .crcError = ds.countP fun d => ¬RightCrc d := by
  induction ds with
  | nil => rfl
  | cons d ds ih =>
    rw [frameEvents_cons, List.count_append, ih, List.countP_cons, Nat.add_comm]
    congr 1
    obtain hd | hd | ⟨hc, ht⟩ := frame_cases d
    · rw [frameOutputs_wrongCrc hd, if_pos (decide_eq_true hd)]; rfl
    · rw [frameOutputs_deliverable hd, if_neg fun h => absurd hd.1 (of_decide_eq_true h)]; rfl
    · rw [frameOutputs_reserved hc ht, if_neg fun h => absurd hc (of_decide_eq_true h)]; rfl

/-- One FRAME_RECEIVED for each frame that is delivered. -/
theorem count_frameReceived_frameEvents (ds : List (List Byte)) :
    (frameEvents ds).count .frameReceived = ds.countP fun d => Deliverable d := by
  induction ds with
  | nil => rfl
  | cons d ds ih =>
    rw [frameEvents_cons, List.count_append, ih, List.countP_cons, Nat.add_comm]
    congr 1
    obtain hd | hd | ⟨hc, ht⟩ := frame_cases d
    · rw [frameOutputs_wrongCrc hd, if_neg fun h => hd (of_decide_eq_true h).1]; rfl
    · rw [frameOutputs_deliverable hd, if_pos (decide_eq_true hd)]; rfl
    · rw [frameOutputs_reserved hc ht, if_neg fun h => ht (of_decide_eq_true h).2]; rfl

theorem mem_frameEvents {ds : List (List Byte)} {e : Event} (h : e ∈ frameEvents ds) :
    e = .crcError ∨ e = .frameReceived := by
  induction ds with
  | nil => cases h
  | cons d ds ih =>
    rw [frameEvents_cons] at h
    obtain h | h := List.mem_append.1 h
    · obtain hd | hd | ⟨hc, ht⟩ := frame_cases d
      · rw [frameOutputs_wrongCrc hd] at h
        exact .inl (List.mem_singleton.1 h)
      · rw [frameOutputs_deliverable hd] at h
        exact .inr (List.mem_singleton.1 h)
      · rw [frameOutputs_reserved hc ht] at h
        cases h
    · exact ih h

/-- LINK.PIN's whole output: what its frames output, then the result. -/
theorem pinned_outputs (s : State) : (s.pinned.pushResult (.int 0)).outputs =
    s.outputs ++ ((framesIn s.incoming).flatMap frameOutputs ++ [.result (.int 0)]) :=
  List.append_assoc _ _ _

theorem pinned_delivered (s : State) : (s.pinned.pushResult (.int 0)).delivered =
    s.delivered ++ ((framesIn s.incoming).filter fun d => Deliverable d).map payloadOf := by
  rw [State.delivered_of_outputs (pinned_outputs s), List.filterMap_append, filterMap_asDelivery_frameOutputs]
  exact congrArg _ (List.append_nil _)

theorem pinned_events (s : State) : (s.pinned.pushResult (.int 0)).events =
    s.events ++ frameEvents (framesIn s.incoming) := by
  rw [State.events_of_outputs (pinned_outputs s), List.filterMap_append]
  exact congrArg _ (List.append_nil _)

theorem pinned_phyCalls (s : State) : (s.pinned.pushResult (.int 0)).phyCalls = s.phyCalls := by
  refine phyCalls_eq_of_outputs (pinned_outputs s) ?_
  rw [List.filterMap_append, filterMap_asPhyCall_frameOutputs]
  rfl

/-- A pass that delivers makes one delivery (R156). -/
theorem delivered_after_data (s : State) (n : Nat) (payload : List Byte) :
    ((Verdict.data n payload).after s).delivered = s.delivered ++ [payload] :=
  State.delivered_of_outputs (l := [.delivery payload, .event .frameReceived]) rfl

/-- A body that fails its checks makes neither a delivery nor a call. -/
theorem delivered_of_concludes {decoded : List Byte} {n : Nat} {v : Verdict} (h : checkFrame decoded n = .error v) :
    (v.after s).delivered = s.delivered := by
  refine delivered_eq_of_outputs (l := v.outputs) rfl ?_
  obtain hout | hout := outputs_of_checkFrame_error h <;> rw [hout] <;> rfl

theorem phyCalls_of_concludes {decoded : List Byte} {n : Nat} {v : Verdict} (h : checkFrame decoded n = .error v) :
    (v.after s).phyCalls = s.phyCalls := by
  refine phyCalls_eq_of_outputs (l := v.outputs) rfl ?_
  obtain hout | hout := outputs_of_checkFrame_error h <;> rw [hout] <;> rfl

/-! ### Writers -/

/-- TYPE 0x01 is not a reserved TYPE (R75), so a well-formed instruction that delivers is FRAME.TYPE.DATA. -/
theorem eq_frameTypeData (hwf : i.wellFormed = true) (hi : i = .frameTypeData ∨ i = .frameTypeReserved 0x01) :
    i = .frameTypeData := by
  obtain rfl | rfl := hi
  · rfl
  · cases hwf

theorem Completes.writer_of_outgoing (hc : Completes s i t) (h : t.outgoing ≠ s.outgoing) :
    (∃ x, i = .linkSend x) ∨ (∃ a, i = .linkPout a) ∨ i = .linkReset := by
  cases hc with
  | sends => exact .inl ⟨_, rfl⟩
  | transmits => exact .inr (.inl ⟨_, rfl⟩)
  | resets => exact .inr (.inr rfl)
  | _ => exact absurd rfl h

/-- The instructions that may write the incoming queue (R33; log 3). -/
theorem Completes.writer_of_incoming (hc : Completes s i t) (h : t.incoming ≠ s.incoming) :
    (∃ x, i = .linkRx x) ∨ i = .linkPin ∨ i = .linkReset ∨ i = .frameTypeData ∨ (∃ b, i = .frameTypeReserved b) ∨
      IsBodySymbol i := by
  cases hc with
  | overflows => exact .inl ⟨_, rfl⟩
  | deposits => exact .inl ⟨_, rfl⟩
  | pins => exact .inr (.inl rfl)
  | resets => exact .inr (.inr (.inl rfl))
  | skips hi => exact .inr (.inr (.inr (.inr (.inr hi))))
  | concludes => exact .inr (.inr (.inr (.inr (.inr trivial))))
  | delivers hi => exact .inr (.inr (.inr (hi.imp_right fun hi => .inl ⟨_, hi⟩)))
  | rejects => exact .inr (.inr (.inr (.inr (.inl ⟨_, rfl⟩))))
  | _ => exact absurd rfl h

theorem isBodySymbol_iff : IsBodySymbol i ↔
    i = .wireDelimiter ∨ (∃ c, i = .cobsCodeRun c) ∨ i = .cobsCodeFull ∨ ∃ d, i = .cobsData d := by
  cases i <;> simp [IsBodySymbol]

theorem Completes.writer_of_delivered (hc : Completes s i t) (hwf : i.wellFormed = true)
    (h : t.delivered ≠ s.delivered) : i = .linkPin ∨ i = .frameTypeData := by
  cases hc with
  | pins => exact .inl rfl
  | delivers hi => exact .inr (eq_frameTypeData hwf hi)
  | awaits => exact absurd rfl h
  | walks => exact absurd rfl h
  | concludes _ hv => exact absurd (delivered_of_concludes hv) h
  | _ => exact absurd (delivered_eq_of_outputs rfl rfl) h

theorem Completes.writer_of_phyCalls (hc : Completes s i t) (h : t.phyCalls ≠ s.phyCalls) :
    ∃ a, i = .linkPout a := by
  cases hc with
  | transmits => exact ⟨_, rfl⟩
  | pins => exact absurd (pinned_phyCalls s) h
  | awaits => exact absurd rfl h
  | walks => exact absurd rfl h
  | concludes _ hv => exact absurd (phyCalls_of_concludes hv) h
  | _ => exact absurd (phyCalls_eq_of_outputs rfl rfl) h

/-- Settles O48: each clause is its writers' lemma. -/
theorem writersOfTheQueues : Obligations.WritersOfTheQueues := by
  intro i s t hwf hexec
  have hc := completes_of_exec hexec
  refine ⟨hc.writer_of_outgoing, fun h => ?_, hc.writer_of_delivered hwf, hc.writer_of_phyCalls⟩
  have hwriter := hc.writer_of_incoming h
  rwa [isBodySymbol_iff] at hwriter

/-! ### Transmitted bytes -/

/-- One downward call: what was accepted has left the queue's head (R133). -/
theorem transmittedBytes_transmitted {a : Int} (ha : a ≤ s.submission.length) :
    (s.transmitted a).acceptedBytes ++ (s.transmitted a).outgoing = s.acceptedBytes ++ s.outgoing := by
  have hcalls : (s.transmitted a).phyCalls = s.phyCalls ++ [⟨s.submission, a⟩] :=
    State.phyCalls_of_outputs (l := [.phyCall ⟨s.submission, a⟩, .result (.int a)]) rfl
  rw [submission_length] at ha
  rw [State.acceptedBytes, hcalls, List.map_append, List.flatten_append, List.append_assoc]
  refine congrArg _ ?_
  rw [List.map_singleton, List.flatten_singleton]
  exact accepted_append_drop ha

/-- What calls nothing down has transmitted nothing. -/
theorem acceptedBytes_eq (h : t.phyCalls = s.phyCalls) : t.acceptedBytes = s.acceptedBytes := by
  rw [State.acceptedBytes, h, State.acceptedBytes]

theorem transmittedBytes_eq (hcalls : t.phyCalls = s.phyCalls) (hout : t.outgoing = s.outgoing) :
    t.acceptedBytes ++ t.outgoing = s.acceptedBytes ++ s.outgoing := by
  rw [acceptedBytes_eq hcalls, hout]

theorem transmittedBytes_sent (p : List Byte) :
    (s.sent p).acceptedBytes ++ (s.sent p).outgoing = s.acceptedBytes ++ s.outgoing ++ wire p := by
  have hcalls : (s.sent p).phyCalls = s.phyCalls :=
    phyCalls_eq_of_outputs (l := [.event .outgoingDataAvailable, .result (.int 0)]) rfl rfl
  rw [acceptedBytes_eq hcalls, List.append_assoc]
  rfl

/-- Settles O27: a LINK.SEND that returns 0 appends its frame, a LINK.POUT moves bytes, and nothing else touches
them. -/
theorem transmittedBytesAreTheSentFrames : Obligations.TransmittedBytesAreTheSentFrames := by
  intro i s t hexec hreset
  cases completes_of_exec hexec with
  | answers hi =>
    refine .inr ⟨fun p hp => ?_, transmittedBytes_eq (phyCalls_eq_of_outputs rfl rfl) rfl⟩
    rw [hp] at hi
    cases hi
    exact results_ne_of_error rfl
  | sendFails =>
    exact .inr ⟨fun _ _ => results_ne_of_error rfl, transmittedBytes_eq (phyCalls_eq_of_outputs rfl rfl) rfl⟩
  | sends => exact .inl ⟨_, rfl, results_eq_of_event rfl, transmittedBytes_sent _⟩
  | transmits _ ha => exact .inr ⟨nofun, transmittedBytes_transmitted ha⟩
  | overflows => exact .inr ⟨nofun, transmittedBytes_eq (phyCalls_eq_of_outputs rfl rfl) rfl⟩
  | deposits => exact .inr ⟨nofun, transmittedBytes_eq (phyCalls_eq_of_outputs rfl rfl) rfl⟩
  | pins => exact .inr ⟨nofun, transmittedBytes_eq (pinned_phyCalls s) rfl⟩
  | resets => exact absurd rfl hreset
  | awaits hi => exact .inr ⟨fun p hp => (hp ▸ hi).elim, rfl⟩
  | walks hi => exact .inr ⟨fun p hp => (hp ▸ hi).elim, rfl⟩
  | skips hi =>
    exact .inr ⟨fun p hp => (hp ▸ hi).elim, transmittedBytes_eq (phyCalls_eq_of_outputs rfl rfl) rfl⟩
  | concludes _ hv => exact .inr ⟨nofun, transmittedBytes_eq (phyCalls_of_concludes hv) rfl⟩
  | delivers hi =>
    refine .inr ⟨fun p hp => ?_, transmittedBytes_eq (phyCalls_eq_of_outputs rfl rfl) rfl⟩
    obtain hi | hi := hi
    · cases hp.symm.trans hi
    · cases hp.symm.trans hi
  | rejects => exact .inr ⟨nofun, transmittedBytes_eq (phyCalls_eq_of_outputs rfl rfl) rfl⟩

/-! ### ERROR -/

/-- A body that fails its checks enters ERROR for its CRC or leaves `link_state` alone (R152 to R155). -/
theorem leaves_of_checkFrame_error {decoded : List Byte} {n : Nat} {v : Verdict} (h : checkFrame decoded n = .error v)
    (l : LinkState) :
    v.leaves l = l ∨ (v.leaves l = .error ∧ v = .crcMismatch n ∧ RightLength decoded ∧ ¬RightCrc decoded) := by
  obtain rfl | rfl | hcrc := checkFrame_eq_error h
  · exact .inl rfl
  · exact .inl rfl
  · exact .inr ⟨by rw [hcrc.1]; rfl, hcrc⟩

/-- LINK.PIN leaves ERROR by a last examined frame that is delivered. -/
theorem pinned_leaves_error {q : List Byte} (h : (framesIn q).foldl frameState .error ≠ .error) :
    ∃ d ∈ framesIn q, Deliverable d ∧ (framesIn q).foldl frameState .error = .ready := by
  rw [foldl_frameState] at h ⊢
  cases hlast : (framesIn q).getLast? with
  | none =>
    rw [hlast] at h
    exact absurd rfl h
  | some d =>
    simp only [hlast] at h ⊢
    by_cases hd : Deliverable d
    · exact ⟨d, List.mem_of_getLast? hlast, hd, if_pos hd⟩
    · exact absurd (if_neg hd) h

/-- Settles O46: LINK.SEND's auto-reset, LINK.RESET, and the two instructions that deliver. -/
theorem onlyTheseLeaveError : Obligations.OnlyTheseLeaveError := by
  intro i s t hwf hexec hs ht
  cases completes_of_exec hexec with
  | sendFails hp => exact .inl ⟨_, rfl, hp⟩
  | sends hp => exact .inl ⟨_, rfl, hp⟩
  | transmits hl => cases hs.symm.trans hl
  | pins =>
    change (framesIn s.incoming).foldl frameState s.linkState ≠ .error at ht
    rw [hs] at ht
    obtain ⟨d, hmem, hd, hready⟩ := pinned_leaves_error ht
    refine .inr (.inr ⟨.inl rfl, ?_, ?_⟩)
    · have hfilter : d ∈ (framesIn s.incoming).filter fun d => Deliverable d :=
        List.mem_filter.2 ⟨hmem, decide_eq_true hd⟩
      have hpos := List.length_pos_of_mem hfilter
      rw [pinned_delivered, List.length_append, List.length_map]
      omega
    · change (framesIn s.incoming).foldl frameState s.linkState = .ready
      rw [hs, hready]
  | resets => exact .inr (.inl rfl)
  | concludes _ hv =>
    obtain hl | ⟨hl, -⟩ := leaves_of_checkFrame_error hv s.linkState
    · exact absurd (hl.trans hs) ht
    · exact absurd hl ht
  | delivers hi =>
    refine .inr (.inr ⟨.inr (eq_frameTypeData hwf hi), ?_, rfl⟩)
    rw [delivered_after_data, List.length_append]
    exact Nat.lt_succ_self _
  | rejects => exact absurd rfl ht
  | _ => exact absurd hs ht

/-- LINK.PIN enters ERROR by a last examined frame that is not delivered. -/
theorem pinned_enters_error {q : List Byte} {l : LinkState} (hl : l ≠ .error)
    (h : (framesIn q).foldl frameState l = .error) : ∃ d, (framesIn q).getLast? = some d ∧ ¬Deliverable d := by
  rw [foldl_frameState] at h
  cases hlast : (framesIn q).getLast? with
  | none =>
    rw [hlast] at h
    exact absurd h hl
  | some d =>
    refine ⟨d, rfl, fun hd => ?_⟩
    simp only [hlast, if_pos hd] at h
    cases h

/-- Settles O47: the last frame of LINK.PIN, the delimiter of a wrong CRC, or a reserved TYPE byte. -/
theorem onlyReceptionSetsError : Obligations.OnlyReceptionSetsError := by
  intro i s t hexec hs ht
  cases completes_of_exec hexec with
  | sendFails => cases ht
  | sends => cases ht
  | pins =>
    obtain ⟨d, hlast, hd⟩ := pinned_enters_error hs ht
    refine .inl ⟨rfl, d, hlast, ?_⟩
    by_cases hc : RightCrc d
    · exact .inr ⟨hc, fun htype => hd ⟨hc, htype⟩⟩
    · obtain ⟨ds, hds⟩ := List.getLast?_eq_some_iff.1 hlast
      refine .inl ⟨hc, ds.flatMap frameOutputs, ?_⟩
      rw [pinned_outputs, hds, List.flatMap_append, List.flatMap_singleton, frameOutputs_wrongCrc hc]
      simp only [List.append_assoc, List.singleton_append]
  | resets => cases ht
  | concludes hr hv =>
    obtain hl | ⟨-, rfl, hlen, hcrc⟩ := leaves_of_checkFrame_error hv s.linkState
    · exact absurd (hl.symm.trans ht) hs
    · exact .inr (.inl ⟨rfl, rfl, _, hr, hlen, hcrc⟩)
  | delivers => cases ht
  | rejects hw hhead hb => exact .inr (.inr ⟨_, _, rfl, hb, List.append_nil _, hw, hhead⟩)
  | _ => exact absurd ht hs

/-! ### Events -/

/-- Settles O49: the events of each way an instruction completes. -/
theorem eventsOfEachInstruction : Obligations.EventsOfEachInstruction := by
  intro i s t hwf hexec
  cases completes_of_exec hexec with
  | answers hi =>
    refine ⟨_, State.events_of_outputs rfl, ?_⟩
    cases i with
    | linkSend x => cases hi; exact ⟨fun h => absurd h (results_ne_of_error rfl), fun _ => rfl⟩
    | linkRx x => cases hi; exact ⟨fun h => absurd h (results_ne_of_error rfl), fun _ => rfl⟩
    | crcCalc | cobsEnc | cobsDec | linkPout | linkMaxpl => exact rfl
    | _ => exact hi.elim
  | sendFails =>
    exact ⟨_, State.events_of_outputs rfl, fun h => absurd h (results_ne_of_error rfl), fun _ => rfl⟩
  | sends =>
    exact ⟨_, State.events_of_outputs rfl, fun _ => rfl, fun h => absurd (results_eq_of_event rfl) h⟩
  | transmits => exact ⟨_, State.events_of_outputs rfl, rfl⟩
  | overflows =>
    exact ⟨_, State.events_of_outputs rfl, fun h => absurd h (results_ne_of_error rfl), fun _ => rfl⟩
  | deposits =>
    exact ⟨_, State.events_of_outputs rfl, fun _ => rfl, fun h => absurd (results_eq_of_event rfl) h⟩
  | pins =>
    exact ⟨_, pinned_events s, count_crcError_frameEvents _, count_frameReceived_frameEvents _, pinned_delivered s,
      fun e he => mem_frameEvents he⟩
  | resets => exact ⟨_, State.events_of_outputs rfl, rfl⟩
  | awaits hi | walks hi _ _ | skips hi =>
    refine ⟨[], by simp [State.events, Verdict.after, Verdict.outputs], ?_⟩
    cases i with
    | wireDelimiter => exact .inl rfl
    | cobsCodeRun | cobsCodeFull | cobsData => exact rfl
    | _ => exact hi.elim
  | concludes _ hv =>
    refine ⟨_, State.events_of_outputs rfl, ?_⟩
    obtain hout | hout := outputs_of_checkFrame_error hv
    · rw [hout]; exact .inl rfl
    · rw [hout]; exact .inr rfl
  | delivers hi =>
    rw [eq_frameTypeData hwf hi]
    exact ⟨_, State.events_of_outputs rfl, rfl⟩
  | rejects => exact ⟨_, State.events_of_outputs rfl, rfl⟩

end Sys2Proof.Machine
end

section
/-! Transactions that are refused (R131, R224; O51), and a payload carried from one block to another over a lossless
channel (95_test_vectors.md section 2.9, T3; O37). -/

namespace Sys2Proof.Machine

variable {s : State}

/-! ### A transaction without a receiver -/

/-- The first element that answers at all decides. -/
theorem findSome?_flatMap_of_find? {α β γ : Type} {p : α → Bool} {f : α → List β} {g : β → Option γ} {l : List α}
    {a : α} {c : γ} (h : l.find? p = some a) (hskip : ∀ x, p x = false → (f x).findSome? g = none)
    (ha : (f a).findSome? g = some c) : (l.flatMap f).findSome? g = some c := by
  obtain ⟨-, before, after, rfl, hbefore⟩ := List.find?_eq_some_iff_append.1 h
  have hnone : (before.flatMap f).findSome? g = none := by
    refine List.findSome?_eq_none_iff.2 fun b hb => ?_
    obtain ⟨x, hx, hbx⟩ := List.mem_flatMap.1 hb
    exact List.findSome?_eq_none_iff.1 (hskip x (by simpa using hbefore x hx)) b hbx
  rw [List.flatMap_append, List.findSome?_append, hnone, List.flatMap_cons, List.findSome?_append, ha]
  rfl

/-- LINK.PIN is refused by the first frame that lacks a receiver. -/
theorem exec_linkPin_refused {p : List Byte → Bool} {d : List Byte} {e : Refusal} (hs : s.AtBoundary)
    (hfind : (framesIn s.incoming).find? p = some d)
    (hskip : ∀ x, p x = false → (frameOutputs x).findSome? s.wiring.refusal = none)
    (hd : (frameOutputs d).findSome? s.wiring.refusal = some e) : exec .linkPin s = .refused e := by
  rw [exec_linkPin_eq_attempt hs]
  exact Wiring.attempt_of_some _ (findSome?_flatMap_of_find? hfind hskip hd)

theorem exists_find? {l : List (List Byte)} {p : List Byte → Prop} [DecidablePred p] (h : ∃ d ∈ l, p d) :
    ∃ d, l.find? (fun d => p d) = some d ∧ p d := by
  obtain ⟨d, hmem, hd⟩ := h
  have hsome : (l.find? fun d => decide (p d)).isSome := List.find?_isSome.2 ⟨d, hmem, decide_eq_true hd⟩
  obtain ⟨d', hfind⟩ := Option.isSome_iff_exists.1 hsome
  exact ⟨d', hfind, of_decide_eq_true (List.find?_some (p := fun d => decide (p d)) hfind)⟩

/-- What a frame of wrong CRC lacks (R155). -/
theorem findSome?_refusal_wrongCrc {w : Wiring} {d : List Byte} (hc : ¬RightCrc d) :
    (frameOutputs d).findSome? w.refusal = if w.events then none else some .noEventManager := by
  rw [frameOutputs_wrongCrc hc]
  cases he : w.events <;> simp [Wiring.refusal, he]

/-- What a frame that is to be delivered lacks (R156): its delivery comes first. -/
theorem findSome?_refusal_deliverable {w : Wiring} {d : List Byte} (hd : Deliverable d) :
    (frameOutputs d).findSome? w.refusal =
      if w.upper then if w.events then none else some .noEventManager else some .noUpperLayer := by
  rw [frameOutputs_deliverable hd]
  cases hu : w.upper <;> cases he : w.events <;> simp [Wiring.refusal, hu, he]

/-- A frame that makes no transaction lacks nothing. -/
theorem findSome?_refusal_none {w : Wiring} {d : List Byte} (h : ¬(¬RightCrc d ∨ Deliverable d)) :
    (frameOutputs d).findSome? w.refusal = none := by
  obtain hc | hd | ⟨hc, ht⟩ := frame_cases d
  · exact absurd (.inl hc) h
  · exact absurd (.inr hd) h
  · rw [frameOutputs_reserved hc ht]
    rfl

theorem exec_linkPin_noEventManager (hs : s.AtBoundary) (hu : s.wiring.upper = true) (he : s.wiring.events = false)
    (h : ∃ d ∈ framesIn s.incoming, ¬RightCrc d ∨ Deliverable d) : exec .linkPin s = .refused .noEventManager := by
  obtain ⟨d, hfind, hd⟩ := exists_find? h
  refine exec_linkPin_refused hs hfind (fun x hx => findSome?_refusal_none (of_decide_eq_false hx)) ?_
  obtain hc | hd := hd
  · rw [findSome?_refusal_wrongCrc hc, he]
    rfl
  · rw [findSome?_refusal_deliverable hd, hu, he]
    rfl

theorem exec_linkPin_noUpperLayer (hs : s.AtBoundary) (hu : s.wiring.upper = false) (he : s.wiring.events = true)
    (h : ∃ d ∈ framesIn s.incoming, Deliverable d) : exec .linkPin s = .refused .noUpperLayer := by
  obtain ⟨d, hfind, hd⟩ := exists_find? h
  refine exec_linkPin_refused hs hfind (fun x hx => ?_) ?_
  · have hx := of_decide_eq_false hx
    by_cases hc : RightCrc x
    · exact findSome?_refusal_none fun h => h.elim (absurd hc) hx
    · rw [findSome?_refusal_wrongCrc hc, he]
      rfl
  · rw [findSome?_refusal_deliverable hd, hu]
    rfl

/-- With neither receiver the first frame that needs one decides. -/
theorem exec_linkPin_noReceiver {d : List Byte} (hs : s.AtBoundary) (hu : s.wiring.upper = false)
    (he : s.wiring.events = false)
    (hfind : (framesIn s.incoming).find? (fun d => ¬RightCrc d ∨ Deliverable d) = some d) :
    exec .linkPin s = .refused (if RightCrc d then .noUpperLayer else .noEventManager) := by
  refine exec_linkPin_refused hs hfind (fun x hx => findSome?_refusal_none (of_decide_eq_false hx)) ?_
  have hneeds := List.find?_some (p := fun d => decide (¬RightCrc d ∨ Deliverable d)) hfind
  obtain hc | hd := of_decide_eq_true hneeds
  · rw [findSome?_refusal_wrongCrc hc, he, if_neg hc]
    rfl
  · rw [findSome?_refusal_deliverable hd, hu, if_pos hd.1]
    rfl

theorem exec_linkPout_noPhysicalLayer (r : Int) (hl : s.linkState = .ready) (hq : s.outgoing ≠ [])
    (hphys : s.wiring.physical = false) : exec (.linkPout r) s = .refused .noPhysicalLayer := by
  have hcall : phySend s.submission r s.endWalk.enterSending = .refused .noPhysicalLayer :=
    if_neg (by simp [hphys])
  rw [exec_linkPout_eq_phySend r hl hq, hcall, andThen_refused]

theorem exec_linkPout_answerTooLarge {r : Int} (hl : s.linkState = .ready) (hq : s.outgoing ≠ [])
    (hphys : s.wiring.physical = true) (hr : (min s.outgoing.length s.params.phyMax : Nat) < r) :
    exec (.linkPout r) s = .refused .answerTooLarge := by
  have hcall : phySend s.submission r s.endWalk.enterSending = .refused .answerTooLarge := by
    rw [← submission_length] at hr
    exact (if_pos hphys).trans (if_neg (Int.not_le.2 hr))
  rw [exec_linkPout_eq_phySend r hl hq, hcall, andThen_refused]

/-- Settles O51: an operation or a symbol is refused by its first transaction without a receiver, LINK.POUT also by an
answer beyond what it submitted. -/
theorem brokenContractsAreRefused : Obligations.BrokenContractsAreRefused := by
  refine ⟨fun p s hs he hp hc hr => ?_, fun x s hs he hx => ?_, fun r s => exec_linkPout_noPhysicalLayer r,
    fun r s => exec_linkPout_answerTooLarge, fun s => exec_linkPin_noEventManager, fun s => exec_linkPin_noUpperLayer,
    fun s d => exec_linkPin_noReceiver, fun s r hs he hr hleft hp hread hlen hcrc => ?_, fun s f hs hu hw hhead => ?_,
    fun s f hs hu he hw hhead => ?_⟩
  · rw [exec_linkSend_queued hs hp hc hr]
    exact Wiring.attempt_of_some _ (by simp [Wiring.refusal, he])
  · rw [exec_linkRx_fits hs hx]
    exact Wiring.attempt_of_some _ (by simp [Wiring.refusal, he])
  · rw [exec_wireDelimiter hs, inBody_of_walking _ hr,
      delimiterByte_fails ⟨hleft, hp, hread⟩ (checkFrame_wrongCrc _ hlen hcrc), applyVerdict_eq_attempt]
    exact Wiring.attempt_of_some _ (by simp [Verdict.outputs, Wiring.refusal, he])
  · rw [exec_frameTypeData hs, typeByte_here hw hhead, typeVerdict_data hhead, applyVerdict_eq_attempt]
    exact Wiring.attempt_of_some _ (by simp [Verdict.outputs, Wiring.refusal, hu])
  · rw [exec_frameTypeData hs, typeByte_here hw hhead, typeVerdict_data hhead, applyVerdict_eq_attempt]
    exact Wiring.attempt_of_some _ (by simp [Verdict.outputs, Wiring.refusal, hu, he])

/-! ### The sender -/

/-- R11's default capacities have room for one frame from reset. -/
theorem exec_linkSend_reset {p : List Byte} (hp : p.length ≤ 250) :
    exec (.linkSend (.bytes p)) State.reset = .next (State.reset.sent p) := by
  have hbound : encBound (p.length + 4) ≤ 257 := by
    rw [encBound]
    omega
  refine sendQueuesOneWireFrame p State.reset nofun rfl hp hbound ?_
  have hlen := (length_wire hp).2
  change 0 + (wire p).length ≤ 514
  omega

/-- R137 over a run of LINK.POUT. -/
theorem transmittedBytes_of_transmit {rs : List Int} {t : State} (h : transmit rs s = .next t) :
    t.acceptedBytes ++ t.outgoing = s.acceptedBytes ++ s.outgoing := by
  induction rs generalizing s with
  | nil =>
    cases h
    rfl
  | cons r rs ih =>
    obtain ⟨u, hu, ht⟩ := andThen_eq_next.1 h
    obtain ⟨p, hp, -⟩ | ⟨-, hkeep⟩ := transmittedBytesAreTheSentFrames _ _ _ hu nofun
    · cases hp
    · rw [ih ht, hkeep]

/-- One answer that takes all the bytes of the frame empties the queue. -/
theorem exists_transmit_sent {p : List Byte} (hp : p.length ≤ 250) :
    ∃ rs t, transmit rs (State.reset.sent p) = .next t ∧ t.outgoing = [] := by
  have hlen := length_wire hp
  have hwire : wire p ≠ [] := List.ne_nil_of_length_pos (by omega)
  have hfits : ((wire p).length : Int) ≤ (State.reset.sent p).submission.length := by
    rw [submission_length]
    change ((wire p).length : Int) ≤ (min (wire p).length 514 : Nat)
    omega
  have hcall := (exec_linkPout_eq_next (s := State.reset.sent p) rfl hwire).2 ⟨rfl, hfits, rfl⟩
  refine ⟨[((wire p).length : Int)], (State.reset.sent p).transmitted (wire p).length, ?_, List.drop_length⟩
  rw [transmit, hcall]
  rfl

/-- Once its queue is empty, the sender has transmitted the wire frame (R137). -/
theorem acceptedBytes_of_transmit_sent {p : List Byte} {rs : List Int} {t : State}
    (h : transmit rs (State.reset.sent p) = .next t) (hout : t.outgoing = []) : t.acceptedBytes = wire p := by
  have hkeep := transmittedBytes_of_transmit h
  rw [hout, List.append_nil] at hkeep
  exact hkeep

/-! ### The receiver -/

/-- From `s` to `t` the bytes `x` arrived, and nothing was received yet. -/
structure Arrived (s : State) (x : List Byte) (t : State) : Prop where
  linkState : t.linkState = s.linkState
  incoming : t.incoming = s.incoming ++ x
  wiring : t.wiring = s.wiring
  delivered : t.delivered = s.delivered
  events : ∃ n, t.events = s.events ++ List.replicate n .incomingDataAvailable

theorem arrived_deposited (s : State) (x : List Byte) : Arrived s x (s.deposited x) :=
  ⟨rfl, rfl, rfl, delivered_eq_of_outputs (l := [.event .incomingDataAvailable, .result (.int 0)]) rfl rfl,
    1, State.events_of_outputs (l := [.event .incomingDataAvailable, .result (.int 0)]) rfl⟩

theorem Arrived.trans {u t : State} {x y : List Byte} (h : Arrived s x u) (h' : Arrived u y t) :
    Arrived s (x ++ y) t := by
  obtain ⟨n, hn⟩ := h.events
  obtain ⟨m, hm⟩ := h'.events
  refine ⟨h'.linkState.trans h.linkState, ?_, h'.wiring.trans h.wiring, h'.delivered.trans h.delivered, n + m, ?_⟩
  · rw [h'.incoming, h.incoming, List.append_assoc]
  · rw [hm, hn, List.append_assoc, List.replicate_append_replicate]

/-- LINK.RX of chunks that fit: they all arrive (R144). -/
theorem exists_deposit {chunks : List (List Byte)} (hs : s.AtBoundary) (he : s.wiring.events = true)
    (hfit : s.incoming.length + chunks.flatten.length ≤ 514) :
    ∃ t, deposit chunks s = .next t ∧ Arrived s chunks.flatten t := by
  induction chunks generalizing s with
  | nil => exact ⟨s, rfl, rfl, (List.append_nil _).symm, rfl, rfl, 0, (List.append_nil _).symm⟩
  | cons x chunks ih =>
    rw [List.flatten_cons, List.length_append] at hfit
    have hx : exec (.linkRx (.bytes x)) s = .next (s.deposited x) :=
      (rxAppendsOrClears s hs).2.2 x (by omega) he
    have hrest : (s.deposited x).incoming.length + chunks.flatten.length ≤ 514 := by
      change (s.incoming ++ x).length + chunks.flatten.length ≤ 514
      rw [List.length_append]
      omega
    obtain ⟨t, ht, harrived⟩ := ih (s := s.deposited x) hs he hrest
    refine ⟨t, ?_, (arrived_deposited s x).trans harrived⟩
    rw [deposit, hx, andThen_next, ht]

/-- A queue that holds one wire frame holds its frame and nothing else. -/
theorem framesIn_wire {p : List Byte} (hp : p.length ≤ 250) : framesIn (wire p) = [linkFrame p] := by
  have hd := cobsDecode_wire [] hp
  have hlen := rightLength_linkFrame hp
  rw [List.append_nil] at hd
  rw [← examinedFrames_eq_framesIn (Nat.le_succ (wire p).length), examinedFrames_succ, hd]
  simp only [if_neg (Nat.not_lt.2 hlen.1), if_pos hlen, List.drop_length]
  rw [examinedFrames_eq_framesIn (Nat.zero_le _)]
  rfl

theorem afterLastZero_wire (p : List Byte) : afterLastZero (wire p) = [] :=
  afterLastZero_append_zero (cobsEncodeBody (linkFrame p)) []

/-- Settles O37: the transmitted bytes are the wire frame (R137), they all arrive, and LINK.PIN examines one frame, the
one that was sent. -/
theorem loopbackDeliversThePayload : Obligations.LoopbackDeliversThePayload := by
  intro p hp
  refine ⟨State.reset.sent p, exec_linkSend_reset hp, exists_transmit_sent hp, ?_⟩
  intro rs x2 htransmit hout chunks hchunks
  rw [acceptedBytes_of_transmit_sent htransmit hout] at hchunks
  have hfit : State.reset.incoming.length + chunks.flatten.length ≤ 514 := by
    have hlen := (length_wire hp).2
    change 0 + chunks.flatten.length ≤ 514
    rw [hchunks]
    omega
  obtain ⟨y1, hy1, harrived⟩ := exists_deposit (s := State.reset) nofun rfl hfit
  obtain ⟨n, hevents⟩ := harrived.events
  have hin : y1.incoming = wire p := harrived.incoming.trans hchunks
  have hframes : framesIn y1.incoming = [linkFrame p] := hin ▸ framesIn_wire hp
  have hdeliver := deliverable_linkFrame p
  have hpinned : (y1.pinned.pushResult (.int 0)).events =
      List.replicate n .incomingDataAvailable ++ [.frameReceived] := by
    rw [pinned_events, hevents, hframes, frameEvents, List.flatMap_singleton, frameOutputs_deliverable hdeliver]
    rfl
  refine ⟨y1, y1.pinned.pushResult (.int 0), hy1, exec_linkPin_attached ?_ ?_ ?_, ?_, ?_, ?_, ?_, ?_⟩
  · rw [State.AtBoundary, harrived.linkState]
    nofun
  · rw [harrived.wiring]
    rfl
  · rw [harrived.wiring]
    rfl
  · rw [pinned_delivered, harrived.delivered, hframes, List.filter_cons_of_pos (by exact decide_eq_true hdeliver),
      List.filter_nil, List.map_singleton, payloadOf_linkFrame hp]
    rfl
  · rw [hpinned, List.count_append, List.count_replicate]
    rfl
  · rw [hpinned, List.count_append, List.count_replicate]
    rfl
  · change (framesIn y1.incoming).foldl frameState y1.linkState = .ready
    rw [hframes]
    exact if_pos hdeliver
  · change afterLastZero y1.incoming = []
    rw [hin, afterLastZero_wire]

end Sys2Proof.Machine
end

section
/-! The receive engine symbol by symbol is LINK.PIN (log 3; O60). A run of symbols mirrors `decodeRun`, the runs of a
body mirror `decodeRuns`, the delimiter and the TYPE byte conclude the pass that `headVerdict` names, and the passes
follow each other as in the loop of LINK.PIN. -/

namespace Sys2Proof.Machine

variable {s t u : State} {r : BodyRegs}

/-! ### Running symbols -/

/-- Some number of symbols, each the one the engine meets next, leads from `s` to `t`. -/
def SymbolsReach (s t : State) : Prop := ∃ n, runSymbols n s = .next t

theorem SymbolsReach.refl (s : State) : SymbolsReach s s := ⟨0, rfl⟩

theorem SymbolsReach.head {i : Instr} (hi : nextSymbol s = some i) (hexec : exec i s = .next u)
    (h : SymbolsReach u t) : SymbolsReach s t := by
  obtain ⟨n, hn⟩ := h
  refine ⟨n + 1, ?_⟩
  simp only [runSymbols, hi, hexec, andThen_next, hn]

theorem SymbolsReach.trans (h : SymbolsReach s u) (h' : SymbolsReach u t) : SymbolsReach s t := by
  obtain ⟨n, hn⟩ := h
  induction n generalizing s with
  | zero =>
    cases hn
    exact h'
  | succ n ih =>
    cases hi : nextSymbol s with
    | none =>
      simp only [runSymbols, hi] at hn
      cases hn
      exact h'
    | some i =>
      simp only [runSymbols, hi] at hn
      obtain ⟨v, hv, hvu⟩ := andThen_eq_next.1 hn
      exact .head hi hv (ih hvu)

/-! ### The bytes up to the delimiter -/

theorem readByte_before_delimiter {q : List Byte} {d p : Nat} (hd : firstZero q = some d) (hp : p < d) :
    readByte q p = some (q.getD p 0) ∧ q.getD p 0 ≠ 0 := by
  obtain ⟨b, t, rfl, hb, rfl⟩ := exists_of_firstZero hd
  have hbyte : (b ++ 0 :: t)[p]? = some b[p] := by
    rw [List.getElem?_append_left hp, List.getElem?_eq_getElem hp]
  rw [readByte, List.getD_eq_getElem?_getD, hbyte]
  exact ⟨rfl, hb _ (List.getElem_mem hp)⟩

theorem readByte_delimiter {q : List Byte} {d : Nat} (hd : firstZero q = some d) : readByte q d = some 0 := by
  obtain ⟨b, t, rfl, -, rfl⟩ := exists_of_firstZero hd
  rw [readByte, List.getElem?_append_right (Nat.le_refl _), Nat.sub_self]
  rfl

/-- The symbol at a point of a body (R70). -/
theorem nextSymbol_of_walking (h : s.Walking r) : nextSymbol s = some (nextInBody s.incoming r) := by
  obtain hw | ⟨hw, hd, hr⟩ := h
  · simp only [nextSymbol, hw]
  · rw [hr]
    simp only [nextSymbol, hw, hd, Option.map_some]

/-- A nonzero byte at a code position runs as a code byte, whichever its row (R71). -/
theorem exec_decodeCode {c : Byte} (hs : s.AtBoundary) (hc : c ≠ 0) :
    exec (decodeCode c) s = inBody (codeByte c) s := by
  rw [decodeCode, if_neg hc]
  by_cases hfull : c = Config.cobsFullCode
  · rw [if_pos hfull, hfull]
    exact exec_cobsCodeFull hs
  · rw [if_neg hfull]
    exact exec_cobsCodeRun hs c

/-! ### One run -/

/-- The registers once the rest of the run's data is copied. -/
def BodyRegs.copied (r : BodyRegs) (q : List Byte) : BodyRegs :=
  { r with p := r.p + r.left, left := 0, out := r.out ++ (q.drop r.p).take r.left }

theorem endRun_setWalk (r : BodyRegs) (s : State) (w : Walk) : endRun r (s.setWalk w) = endRun r s := rfl

/-- Copying one byte and then the rest is copying. -/
theorem copied_succ {q : List Byte} {n : Nat} (hleft : r.left = n + 1) (hp : r.p < q.length) :
    BodyRegs.copied { r with p := r.p + 1, left := n, out := r.out ++ [q.getD r.p 0] } q = r.copied q := by
  have hbyte : q.getD r.p 0 = q[r.p] := by
    rw [List.getD_eq_getElem?_getD, List.getElem?_eq_getElem hp, Option.getD_some]
  simp only [BodyRegs.copied, hleft, hbyte, List.drop_eq_getElem_cons hp, List.take_succ_cons, List.append_assoc,
    List.singleton_append, Nat.add_assoc, Nat.add_comm 1 n]

/-- The data bytes of a run are copied one by one, and the run ends as it would after copying them at once. -/
theorem goOn_reaches {n : Nat} (hs : s.AtBoundary) (hd : firstZero s.incoming = some r.d) (hleft : r.left = n)
    (hp : r.p + n ≤ r.d) (h : endRun (r.copied s.incoming) s = .next t) :
    ∃ u, goOn r s = .next u ∧ SymbolsReach u t := by
  induction n generalizing r s with
  | zero =>
    have hcopied : r.copied s.incoming = r := by
      simp only [BodyRegs.copied, hleft, Nat.add_zero, List.take_zero, List.append_nil]
      rw [← hleft]
    rw [goOn_done s hleft, ← hcopied]
    exact ⟨t, h, .refl t⟩
  | succ n ih =>
    have hlt : r.p < r.d := by omega
    have hne : r.left ≠ 0 := by omega
    obtain ⟨hread, -⟩ := readByte_before_delimiter hd hlt
    have hs' : (s.setWalk (.body r)).AtBoundary := hs
    have hwalking : (s.setWalk (.body r)).Walking r := .inl rfl
    have hnext : nextSymbol (s.setWalk (.body r)) = some (.cobsData (s.incoming.getD r.p 0)) := by
      rw [nextSymbol_of_walking hwalking, nextInBody, if_pos hne]
      rfl
    have hlast := h
    rw [← copied_succ hleft (Nat.lt_trans hlt (firstZero_lt_length hd))] at hlast
    obtain ⟨u, hu, hreach⟩ := ih (s := s.setWalk (.body r))
      (r := { r with p := r.p + 1, left := n, out := r.out ++ [s.incoming.getD r.p 0] })
      hs hd rfl (by simp only; omega) ((endRun_setWalk _ s _).trans hlast)
    refine ⟨s.setWalk (.body r), goOn_left s hne, .head hnext ?_ hreach⟩
    rw [exec_cobsData hs', inBody_of_walking _ hwalking, dataByte_here (s := s.setWalk (.body r)) hne hread, hleft]
    exact hu

/-- The registers once the code byte at the code position is read. -/
def BodyRegs.begun (r : BodyRegs) (c : Byte) : BodyRegs := { r with p := r.p + 1, c := c, left := c.toNat - 1 }

/-- A code byte at its position: the engine meets it and runs it. -/
theorem codeByte_reaches (hs : s.AtBoundary) (hr : s.Walking r) (hd : firstZero s.incoming = some r.d)
    (hleft : r.left = 0) (hp : r.p < r.d) (h : codeByte (s.incoming.getD r.p 0) r s = .next u)
    (hreach : SymbolsReach u t) : SymbolsReach s t := by
  have hne := (readByte_before_delimiter hd hp).2
  have hnext : nextSymbol s = some (decodeCode (s.incoming.getD r.p 0)) := by
    rw [nextSymbol_of_walking hr, nextInBody, if_neg (not_not_intro hleft), if_pos hp]
  refine .head hnext ?_ hreach
  rw [exec_decodeCode hs hne, inBody_of_walking _ hr, h]

/-- What a run that fits gives in the decoder: its data, and the implicit zero unless it is full or the last (R113). -/
theorem decodeRun_fits {q : List Byte} {c : Byte} (hc : q.getD r.p 0 = c) (hle : r.p + c.toNat ≤ r.d)
    (hroom : r.out.length + (c.toNat - 1) ≤ 254) :
    decodeRun q r.d 254 ⟨r.p, r.out⟩ =
      if c.toNat ≠ 0xFF ∧ r.p + c.toNat ≠ r.d then
        if ((r.begun c).copied q).out.length + 1 > 254 then .error .outputTooSmall
        else .ok ⟨r.p + c.toNat, ((r.begun c).copied q).out ++ [0]⟩
      else .ok ⟨r.p + c.toNat, ((r.begun c).copied q).out⟩ := by
  simp only [decodeRun, hc, if_neg (Nat.not_lt.2 hle), if_neg (Nat.not_lt.2 hroom)]
  rfl

theorem decodeRun_overrun {q : List Byte} {c : Byte} (hc : q.getD r.p 0 = c) (hover : r.d < r.p + c.toNat) :
    decodeRun q r.d 254 ⟨r.p, r.out⟩ = .error .invalidInput := by
  simp only [decodeRun, hc, if_pos hover]

theorem decodeRun_noRoom {q : List Byte} {c : Byte} (hc : q.getD r.p 0 = c) (hle : r.p + c.toNat ≤ r.d)
    (hroom : 254 < r.out.length + (c.toNat - 1)) : decodeRun q r.d 254 ⟨r.p, r.out⟩ = .error .outputTooSmall := by
  simp only [decodeRun, hc, if_neg (Nat.not_lt.2 hle), if_pos hroom]

/-- What one run of symbols has to reach, by the decoder's answer on that run (R113, R152). -/
def RunReaches (s : State) (d : Nat) : Except ErrName DecRegs → Prop
  | .error _ => SymbolsReach s (Verdict.skip.after s)
  | .ok r' => ∃ c, SymbolsReach s (s.setWalk (.body ⟨d, r'.p, c, 0, r'.out⟩))

/-- One run of symbols is one run of the decoder (R113). -/
theorem run_reaches (hs : s.AtBoundary) (hr : s.Walking r) (hd : firstZero s.incoming = some r.d) (hleft : r.left = 0)
    (hp : r.p < r.d) : RunReaches s r.d (decodeRun s.incoming r.d 254 ⟨r.p, r.out⟩) := by
  obtain ⟨hread, hne⟩ := readByte_before_delimiter hd hp
  obtain ⟨c, hc⟩ : ∃ c, s.incoming.getD r.p 0 = c := ⟨_, rfl⟩
  rw [hc] at hread hne
  have hcode : r.AtCode s.incoming c := ⟨hleft, hp, hread⟩
  have hpos : 0 < c.toNat := Nat.pos_of_ne_zero fun h0 => hne (BitVec.eq_of_toNat_eq h0)
  have hreach : ∀ {u t}, codeByte c r s = .next u → SymbolsReach u t → SymbolsReach s t :=
    fun hu => codeByte_reaches hs hr hd hleft hp (hc.symm ▸ hu)
  by_cases hover : r.d < r.p + c.toNat
  · rw [decodeRun_overrun hc hover]
    exact hreach ((codeByte_overrun hcode hover).trans (applyVerdict_skip s)) (.refl _)
  have hle := Nat.not_lt.1 hover
  by_cases hsmall : 254 < r.out.length + (c.toNat - 1)
  · rw [decodeRun_noRoom hc hle hsmall]
    exact hreach ((codeByte_noRoom hcode hle hsmall).trans (applyVerdict_skip s)) (.refl _)
  have hroom := Nat.not_lt.1 hsmall
  have hend : ∀ {t}, endRun ((r.begun c).copied s.incoming) s = .next t → SymbolsReach s t := fun h => by
    have hdata : (r.begun c).p + (c.toNat - 1) ≤ r.d := by
      simp only [BodyRegs.begun]
      omega
    obtain ⟨u, hu, hut⟩ := goOn_reaches (r := r.begun c) hs hd rfl hdata h
    exact hreach ((codeByte_begins hcode hle hroom).trans hu) hut
  have hp' : ((r.begun c).copied s.incoming).p = r.p + c.toNat := by
    simp only [BodyRegs.copied, BodyRegs.begun]
    omega
  have hfull : c.toNat ≠ 0xFF ↔ c ≠ 0xFF := not_congr (BitVec.toNat_inj (y := 0xFF))
  rw [decodeRun_fits hc hle hroom]
  by_cases hzero : c.toNat ≠ 0xFF ∧ r.p + c.toNat ≠ r.d
  · have hc255 : ((r.begun c).copied s.incoming).c ≠ 0xFF := hfull.1 hzero.1
    have hmore : ((r.begun c).copied s.incoming).p ≠ r.d := hp' ▸ hzero.2
    rw [if_pos hzero]
    by_cases hone : ((r.begun c).copied s.incoming).out.length + 1 > 254
    · rw [if_pos hone]
      exact hend ((endRun_noRoom s hc255 hmore hone).trans (applyVerdict_skip s))
    · rw [if_neg hone, ← hp']
      exact ⟨c, hend (endRun_zero s hc255 hmore (Nat.not_lt.1 hone))⟩
  · have hlast : ((r.begun c).copied s.incoming).c = 0xFF ∨ ((r.begun c).copied s.incoming).p = r.d := by
      rw [hp']
      obtain h | h := Decidable.not_and_iff_or_not.1 hzero
      · exact .inl (Decidable.not_not.1 fun hne => h (hfull.2 hne))
      · exact .inr (Decidable.not_not.1 h)
    rw [if_neg hzero, ← hp']
    exact ⟨c, hend (endRun_last s hlast)⟩

/-! ### A body -/

/-- The walk stands at the end of its body, with `out` decoded; all but the walk is as in `s`. -/
def EndOfBody (s : State) (d : Nat) (out : List Byte) (u : State) : Prop :=
  u.endWalk = s.endWalk ∧ ∃ c, u.Walking ⟨d, d, c, 0, out⟩

/-- What the symbols of a body have to reach, by the decoder's answer on the body (R113, R152). -/
def BodyReaches (s : State) (d : Nat) : Except ErrName (List Byte) → Prop
  | .error _ => SymbolsReach s (Verdict.skip.after s)
  | .ok out => ∃ u, SymbolsReach s u ∧ EndOfBody s d out u

/-- A pass looks at all but the walk. -/
theorem after_endWalk (v : Verdict) (s : State) : v.after s.endWalk = v.after s := rfl

theorem after_eq_of_endWalk_eq (v : Verdict) (h : u.endWalk = s.endWalk) : v.after u = v.after s := by
  rw [← after_endWalk v u, h, after_endWalk]

theorem BodyReaches.of_reaches {d : Nat} {o : Except ErrName (List Byte)} (hreach : SymbolsReach s u)
    (hu : u.endWalk = s.endWalk) (h : BodyReaches u d o) : BodyReaches s d o := by
  cases o with
  | error e => exact hreach.trans (after_eq_of_endWalk_eq .skip hu ▸ h)
  | ok out =>
    obtain ⟨v, hv, hend, hwalking⟩ := h
    exact ⟨v, hreach.trans hv, hend.trans hu, hwalking⟩

theorem bodyReaches_end (hr : s.Walking r) (hleft : r.left = 0) (hp : r.p = r.d) : BodyReaches s r.d (.ok r.out) := by
  obtain ⟨d, p, c, left, out⟩ := r
  obtain rfl : left = 0 := hleft
  obtain rfl : p = d := hp
  exact ⟨s, .refl s, rfl, c, hr⟩

/-- The runs of a body, from any code position in it. -/
theorem runs_reach {fuel : Nat} (hs : s.AtBoundary) (hr : s.Walking r) (hd : firstZero s.incoming = some r.d)
    (hleft : r.left = 0) (hp : r.p ≤ r.d) (hfuel : r.d ≤ r.p + fuel) :
    BodyReaches s r.d (decodeRuns s.incoming r.d 254 fuel ⟨r.p, r.out⟩) := by
  induction fuel generalizing s r with
  | zero => exact bodyReaches_end hr hleft (by omega)
  | succ fuel ih =>
    rw [decodeRuns]
    by_cases hlt : r.p < r.d
    · have hrun := run_reaches hs hr hd hleft hlt
      have hne := (readByte_before_delimiter hd hlt).2
      have hpos : 0 < (s.incoming.getD r.p 0).toNat :=
        Nat.pos_of_ne_zero fun h0 => hne (BitVec.eq_of_toNat_eq h0)
      rw [if_pos hlt]
      cases hdec : decodeRun s.incoming r.d 254 ⟨r.p, r.out⟩ with
      | error e =>
        rw [hdec] at hrun
        exact hrun
      | ok r' =>
        rw [hdec] at hrun
        obtain ⟨c, hreach⟩ := hrun
        obtain ⟨hmove, hle, -⟩ := decodeRun_ok hdec
        exact .of_reaches hreach rfl
          (ih (s := s.setWalk (.body ⟨r.d, r'.p, c, 0, r'.out⟩)) hs (.inl rfl) hd rfl hle (by simp only at *; omega))
    · rw [if_neg hlt]
      exact bodyReaches_end hr hleft (by omega)

/-! ### A pass -/

/-- COBS.DEC of a queue with a delimiter is the decode loop on its body (R111). -/
theorem cobsDecode_eq_decodeRuns {q : List Byte} {d : Nat} (cap : Nat) (hd : firstZero q = some d) :
    cobsDecode q cap = (decodeRuns q d cap d ⟨0, []⟩).map fun out => (out, d + 1) := by
  simp only [cobsDecode, hd]
  cases d with
  | zero => rfl
  | succ d =>
    rw [if_neg (Nat.succ_ne_zero d)]
    cases decodeRuns q (d + 1) cap (d + 1) ⟨0, []⟩ <;> rfl

/-- A frame that passed its checks has a TYPE byte (R152). -/
theorem head?_of_checkFrame_ok {decoded : List Byte} {n : Nat} {f : FrameRegs} (h : checkFrame decoded n = .ok f) :
    f.decoded.head? = some (f.decoded.getD 0 0) := by
  obtain ⟨hlen, hdecoded, -, -⟩ := checkFrame_eq_ok h
  rw [hdecoded]
  cases decoded with
  | nil => cases hlen.1
  | cons b decoded => rfl

/-- The TYPE byte of the frame that waits for it (R156, R157). -/
theorem type_reaches {f : FrameRegs} (hs : s.AtBoundary) (hu : s.wiring.upper = true) (he : s.wiring.events = true)
    (hw : s.walk = some (.frame f)) (hhead : f.decoded.head? = some (f.decoded.getD 0 0)) :
    SymbolsReach s ((typeVerdict f).after s) := by
  have hpass := (typeByte_here hw hhead).trans (applyVerdict_attached _ hu he)
  by_cases ht : f.decoded.getD 0 0 = 0x01
  · have hnext : nextSymbol s = some .frameTypeData := by simp only [nextSymbol, hw, if_pos ht]
    rw [ht] at hpass
    exact .head hnext ((exec_frameTypeData hs).trans hpass) (.refl _)
  · have hnext : nextSymbol s = some (.frameTypeReserved (f.decoded.getD 0 0)) := by
      simp only [nextSymbol, hw, if_neg ht]
    exact .head hnext ((exec_frameTypeReserved hs _).trans hpass) (.refl _)

/-- The delimiter of a body, and the TYPE byte of its frame if that passes, conclude the pass (R152 to R157). -/
theorem delimiter_reaches {d : Nat} {c : Byte} {out : List Byte} (hs : s.AtBoundary) (hu : s.wiring.upper = true)
    (he : s.wiring.events = true) (hr : s.Walking ⟨d, d, c, 0, out⟩) (hd : firstZero s.incoming = some d) :
    SymbolsReach s ((parseFrame out (d + 1)).after s) := by
  have hnext : nextSymbol s = some .wireDelimiter := by
    rw [nextSymbol_of_walking hr, nextInBody, if_neg (not_not_intro rfl), if_neg (Nat.lt_irrefl d)]
  have hexec := (exec_wireDelimiter hs).trans (inBody_of_walking _ hr)
  have hread := readByte_delimiter hd
  cases hf : checkFrame out (d + 1) with
  | error v =>
    rw [parseFrame, hf]
    have hfails := delimiterByte_fails (r := ⟨d, d, c, 0, out⟩) ⟨rfl, rfl, hread⟩ hf
    exact .head hnext (hexec.trans (hfails.trans (applyVerdict_attached _ hu he))) (.refl _)
  | ok f =>
    rw [parseFrame, hf]
    have hpasses := delimiterByte_passes (r := ⟨d, d, c, 0, out⟩) ⟨rfl, rfl, hread⟩ hf
    exact .head hnext (hexec.trans hpasses)
      (type_reaches (s := s.setWalk (.frame f)) hs hu he rfl (head?_of_checkFrame_ok hf))

/-- The symbols of one wire frame make the pass that LINK.PIN makes on it. -/
theorem pass_reaches {v : Verdict} (hs : s.AtBoundary) (hu : s.wiring.upper = true) (he : s.wiring.events = true)
    (hw : s.walk = none) (hv : headVerdict s.incoming = some v) : SymbolsReach s (v.after s) := by
  obtain ⟨d, hd, -, -⟩ := headVerdict_removed hv
  have hbody := runs_reach (r := .start d) (fuel := d) hs (.inr ⟨hw, hd, rfl⟩) hd rfl (Nat.zero_le _)
    (Nat.le_add_left _ _)
  have hdec := cobsDecode_eq_decodeRuns 254 hd
  change BodyReaches s d (decodeRuns s.incoming d 254 d ⟨0, []⟩) at hbody
  cases hruns : decodeRuns s.incoming d 254 d ⟨0, []⟩ with
  | error e =>
    rw [hruns] at hbody hdec
    have hne : e ≠ .incomplete := fun h => decodeRuns_ne_incomplete _ _ _ _ _ (h ▸ hruns)
    obtain rfl : Verdict.skip = v := Option.some.inj ((headVerdict_of_error hdec hne).symm.trans hv)
    exact hbody
  | ok out =>
    rw [hruns] at hbody hdec
    obtain rfl : parseFrame out (d + 1) = v := Option.some.inj ((headVerdict_of_ok hdec).symm.trans hv)
    obtain ⟨u, hreach, hend, c, hwalking⟩ := hbody
    have hlink : u.linkState = s.linkState := by simpa using congrArg State.linkState hend
    have hwiring : u.wiring = s.wiring := by simpa using congrArg State.wiring hend
    have hincoming : u.incoming = s.incoming := by simpa using congrArg State.incoming hend
    have hboundary : u.AtBoundary := by rwa [State.AtBoundary, hlink]
    rw [← after_eq_of_endWalk_eq _ hend]
    exact hreach.trans
      (delimiter_reaches hboundary (hwiring ▸ hu) (hwiring ▸ he) hwalking (hincoming ▸ hd))

/-! ### All passes -/

/-- The passes that symbols make are those of LINK.PIN, until no delimiter is left (R150). -/
theorem reaches_pinned {s : State} (hs : s.AtBoundary) (hu : s.wiring.upper = true) (he : s.wiring.events = true)
    (hw : s.walk = none) : SymbolsReach s s.pinned := by
  obtain hfree | ⟨v, hv, hlt⟩ := zeroFree_or_headVerdict s.incoming
  · rw [pinned_of_zeroFree hw hfree]
    exact .refl s
  · have hrest := reaches_pinned (s := v.after s) (leaves_ne_sending v hs) hu he rfl
    rw [pinned_after hv] at hrest
    exact (pass_reaches hs hu he hw hv).trans hrest
termination_by s.incoming.length

/-- Settles O60: the symbols reach the state that LINK.PIN ends in, where the queue holds no delimiter and no walk is
under way. -/
theorem symbolStepsRefineLinkPin : Obligations.SymbolStepsRefineLinkPin := by
  intro s hs hu he hw
  obtain ⟨n, hn⟩ := reaches_pinned hs hu he hw
  obtain ⟨-, -, hfree, -⟩ := exists_append_afterLastZero s.incoming
  have hnone : nextSymbol s.pinned = none := by
    have hawait : firstZero s.pinned.incoming = none := firstZero_of_zeroFree hfree
    simp only [nextSymbol, show s.pinned.walk = none from rfl, hawait, Option.map_none]
  exact ⟨n, s.pinned, hn, hnone, exec_linkPin_attached hs hu he⟩

end Sys2Proof.Machine
end
